-- ==== Sys2Proof/Word.lean ====
section
/-! DEFINITION. The two machine word types. Everything the spec shifts, masks or slices is a bit vector of one of these
widths; every value inside a command is a mathematical integer (R13), so it is an `Int` or a `Nat`. -/

namespace Sys2Proof

/-- One byte of data memory (R70), and the width of an opcode field (R100). -/
abbrev Byte := BitVec 8

/-- A 32-bit register of the window (R32), and a CMD word (R101). -/
abbrev Word := BitVec 32

end Sys2Proof
end

