-- ==== Sys2Proof/Machine/Arith.lean ====
section
/-! DEFINITION. The integer operators of R14 and R15. All arithmetic inside a command is exact integer arithmetic (R13). -/

namespace Sys2Proof.Machine

/-- `a >> n` (R15): the arithmetic right shift, floor(a / 2^n). -/
def asr (a : Int) (n : Nat) : Int := a / ((2 ^ n : Nat) : Int)

/-- `a << n` (R15): a * 2^n. -/
def shl (a : Int) (n : Nat) : Int := a * ((2 ^ n : Nat) : Int)

/-- `a & (2^n - 1)` (R15): a mod 2^n, in 0..2^n - 1 also for negative a. -/
def lowBits (a : Int) (n : Nat) : Int := a % ((2 ^ n : Nat) : Int)

/-- `tdiv(a, b)` (R15): the quotient rounded toward zero. -/
def tdiv (a b : Int) : Int := Int.tdiv a b

/-- `abs(a)` (R15). -/
def iabs (a : Int) : Int := (a.natAbs : Int)

/-- `sign(a)` (R15). -/
def sgn (a : Int) : Int := if a < 0 then -1 else if a = 0 then 0 else 1

/-- `clip3(lo, hi, v)` (R15). -/
def clip3 (lo hi v : Int) : Int := min (max v lo) hi

/-- `clipS_bd(v)` (R15): the sample clip for bit depth bd. -/
def clipS (bd : Nat) (v : Int) : Int := clip3 0 (((2 ^ bd : Nat) : Int) - 1) v

/-- The `len` bits of a word from bit `lo` up, as an unsigned value (R14). -/
def bits (w : Word) (lo len : Nat) : Nat := (w.extractLsb' lo len).toNat

/-- `zext_32` (R14). -/
def zext32 (w : Word) : Int := (w.toNat : Int)

/-- `sext_32` (R14). -/
def sext32 (w : Word) : Int := w.toInt

/-- `sext_8` (R14). -/
def sext8 (b : BitVec 8) : Int := b.toInt

/-- `sext_16` of a 16-bit value (R14). -/
def sext16 (v : Int) : Int := (BitVec.ofInt 16 v).toInt

/-- `v[31:0]`: the 32-bit two's-complement pattern of an integer (R43). -/
def low32 (v : Int) : Word := BitVec.ofInt 32 v

/-- A value is even (R74). -/
def even (a : Int) : Bool := a % 2 == 0

end Sys2Proof.Machine
end

