-- ==== Sys2Proof/Config.lean ====
section
/-! DEFINITION. What an implementation fixes: the decided constants of R10, and the parameters R10, R11 and R12 leave OPEN,
as one plain record `Params` that the machine's state carries and no step changes. A statement about every state is thereby a
statement about every value of every parameter. `Config.platform`, the record the machine has at reset, is uninterpreted
(log 1): nothing in Lean can evaluate it, and what is known of it is what `Params.wf` says. -/

namespace Sys2Proof.Config

/-- MAX_BLK (R10): the largest motion-compensation block width and height, in luma samples. -/
def maxBlk : Nat := 128

/-- MAX_REF (R10): the entries per list of the reference POC table. -/
def maxRef : Nat := 16

/-- MAX_LINES (R10): the largest line count of one direct edge-filter command. -/
def maxLines : Nat := 64

/-- The OPEN parameters of R10, R11 and R12.
REG_BASE is not here: the window is addressed by offsets, and where the platform puts it no step can show (log 2). -/
structure Params where
  /-- MEM_BYTES (R10, R70): the size of data memory in bytes. -/
  memBytes : Nat
  /-- IMPL_ID (R3, R33): what the ID register reads as. -/
  implId : Word
  /-- MAX_PIC_W (R10): the widest picture the CODED bitmap covers, in luma samples. -/
  maxPicW : Nat
  /-- MAX_PIC_H (R10): the tallest picture the CODED bitmap covers, in luma samples. -/
  maxPicH : Nat
  /-- LUMA_COEF[p][k] (R11): 16 phases of 8 taps. -/
  lumaCoef : Vector (Vector Int 8) 16
  /-- CHROMA_COEF[p][k] (R11): 32 phases of 4 taps. -/
  chromaCoef : Vector (Vector Int 4) 32
  /-- DF_QP_MIN (R12): the first QP of DF_ST's domain. -/
  dfQpMin : Int
  /-- DF_QP_MAX (R12): the last QP of DF_ST's domain. -/
  dfQpMax : Int
  /-- DF_ST[c] (R12): for each class, the thresholds for QP = DF_QP_MIN, DF_QP_MIN + 1, ..., DF_QP_MAX. -/
  dfSt : Vector (List Nat) 4
  /-- CHROMA_QP_MAP[Cb][q] (R12), for q = -36, -35, ..., 57: the widest domain a legal BITDEPTH_C gives. -/
  qpMapCb : Vector Int 94
  /-- CHROMA_QP_MAP[Cr][q] (R12), likewise. -/
  qpMapCr : Vector Int 94
  /-- DF_SHIFT(bd) (R12), for bd = 8, 9, ..., 14. -/
  dfShift : Vector Nat 7
  deriving DecidableEq, Repr, Inhabited

/-- A row of coefficients sums to 64 (R11, a constraint the spec takes by its decision D18). -/
def rowSums64 {n : Nat} (row : Vector Int n) : Bool := row.toList.sum == 64

/-- Every entry of a row is at most 128 in absolute value (R11, D18). -/
def rowBounded {n : Nat} (row : Vector Int n) : Bool := row.toList.all fun c => c.natAbs ≤ 128

/-- R11: a luma row other than 0, 4, 8 and 12 is identically zero; a row a filter can reach (4, 8, 12) sums to 64. -/
def lumaRowOk (p : Nat) (row : Vector Int 8) : Bool :=
  rowBounded row && (if p % 4 == 0 then p == 0 || rowSums64 row else row.toList.all fun c => c == 0)

/-- R11: a chroma row a filter can reach (the non-zero multiples of 4, by R142) sums to 64. -/
def chromaRowOk (p : Nat) (row : Vector Int 4) : Bool :=
  rowBounded row && (p % 4 != 0 || p == 0 || rowSums64 row)

/-- A picture limit is a multiple of 4 between 4 and 65532 (R10). -/
def picLimitOk (n : Nat) : Bool := n % 4 == 0 && 4 ≤ n && n ≤ 65532

/-- What the spec says of every parameter's value (R10, R11, R12). -/
def Params.wf (p : Params) : Bool :=
  2 ≤ p.memBytes && p.memBytes ≤ 2 ^ 32 && picLimitOk p.maxPicW && picLimitOk p.maxPicH &&
  (List.range 16).all (fun i => lumaRowOk i (p.lumaCoef[i]?.getD default)) &&
  (List.range 32).all (fun i => chromaRowOk i (p.chromaCoef[i]?.getD default)) &&
  p.dfSt.toList.all fun t => t.length == (p.dfQpMax - p.dfQpMin + 1).toNat

/-- LUMA_COEF[ph][k] (R11). -/
def Params.luma (p : Params) (ph k : Nat) : Int := ((p.lumaCoef[ph]?.getD default)[k]?).getD 0

/-- CHROMA_COEF[ph][k] (R11). -/
def Params.chroma (p : Params) (ph k : Nat) : Int := ((p.chromaCoef[ph]?.getD default)[k]?).getD 0

/-- A record of parameters to test on, and the witness that `Params.wf` can be met: the candidate coefficient rows of
93_implementation_defined.md I3 (which the spec marks as not normative) and thresholds that meet the assumptions of
95_test_vectors.md program P3. No statement rests on a value of it. -/
def sample : Params where
  memBytes := 0x10000
  implId := 0x0D14C001
  maxPicW := 64
  maxPicH := 64
  lumaCoef := (((Vector.replicate 16 (Vector.replicate 8 0)).set 0 #v[0, 0, 0, 64, 0, 0, 0, 0]).set 4
    #v[0, 1, -5, 52, 20, -5, 1, 0]).set 8 #v[0, 2, -10, 40, 40, -10, 2, 0] |>.set 12 #v[0, 1, -5, 20, 52, -5, 1, 0]
  chromaCoef := (((Vector.replicate 32 (Vector.replicate 4 0)).set 0 #v[0, 64, 0, 0]).set 4
    #v[-2, 58, 10, -2]).set 8 #v[-4, 52, 20, -4] |>.set 12 #v[-6, 46, 30, -6] |>.set 16 #v[-8, 40, 40, -8]
    |>.set 20 #v[-6, 30, 46, -6] |>.set 24 #v[-4, 20, 52, -4] |>.set 28 #v[-2, 10, 58, -2]
  dfQpMin := 0
  dfQpMax := 51
  dfSt := #v[List.replicate 52 12, List.replicate 52 8, List.replicate 52 4, List.replicate 52 2]
  qpMapCb := Vector.ofFn fun i => (i.val : Int) - 36
  qpMapCr := Vector.ofFn fun i => (i.val : Int) - 36
  dfShift := #v[0, 1, 2, 3, 4, 5, 6]

/-- The parameters of the implementation, uninterpreted (log 1). -/
opaque implementation : Params

/-- The parameters the machine has at reset (log 1): those of the implementation, which the spec says are well-formed.
Where the uninterpreted record were not, the well-formed sample stands, so that `platform` takes every well-formed value and
no other. -/
def platform : Params := if implementation.wf then implementation else sample

/-- A free value (R53, R281, I12; log 4): the byte that data memory holds at an address at power-up. -/
opaque powerUp : Nat → Byte

/-- A free value (R282, I11; log 3): the byte that the `n`-th abandoned command leaves at an address of its write set. -/
opaque freeByte : Nat → Nat → Byte

end Sys2Proof.Config
end

