-- ==== Sys2Proof/Syntax.lean ====
section
/-! DEFINITION. The commands (R102), the fields of a CMD word (R100), and the chroma planes (R19). -/

namespace Sys2Proof

/-- The fields of a CMD word (R100, format CMD32). -/
structure CmdWord where
  /-- RSV, bits 31:10. -/
  rsv : BitVec 22
  /-- PLANE, bits 9:8. -/
  plane : BitVec 2
  /-- OPC, bits 7:0. -/
  opc : BitVec 8
  deriving DecidableEq, Repr

/-- A chroma plane (R19, R100: PLANE = 1 is Cb, PLANE = 2 is Cr). -/
inductive ChromaPlane where
  | cb
  | cr
  deriving DecidableEq, Repr

/-- The 14 commands, one constructor for each legal CMD word (R102, R104). A command has no immediate operand: every operand
is read from the ARG, configuration and REFPOC registers (R100). -/
inductive Instr where
  | nop
  | mcPredLuma
  | mcPredChroma
  | mcBiAvg
  | mcMvClip
  | mcBlock
  | dfBs
  | dfEdgeLuma
  | dfEdgeChroma
  | dfQpcCb
  | dfQpcCr
  | dfPassBegin
  | dfCuHor
  | dfCuVer
  deriving DecidableEq, Repr

end Sys2Proof
end

