-- ==== Sys2Proof/Machine/State.lean ====
section
/-! DEFINITION. The state of the block (10_state.md), the moves of the agents around it (R292), and the ways a step can stop. -/

namespace Sys2Proof.Machine

/-- The fault codes of the block (R250). A command that faults takes the fault as the spec describes it (R252): its step ends
in a next state. These are no `Fault` of the model. -/
inductive ErrCode where
  /-- 0x01: the CMD word is illegal. -/
  | illegalCmd
  /-- 0x02: a configuration predicate the command needs is false. -/
  | config
  /-- 0x03: a size, count or position operand is outside its legal set. -/
  | geometry
  /-- 0x04: MC_BLOCK with neither list used. -/
  | noRef
  /-- 0x05: a base address the command uses is odd. -/
  | misaligned
  /-- 0x06: an access the command would make lies outside data memory. -/
  | memRange
  /-- 0x07: a reference index or a QP outside its table. -/
  | tableRange
  deriving DecidableEq, Repr

/-- STATUS (R35): its four flags (R48) and its two code fields. BUSY is also the engine's IDLE/BUSY state (R50). -/
structure Status where
  busy : Bool
  done : Bool
  err : Bool
  wign : Bool
  errCode : BitVec 8
  errOp : BitVec 8
  deriving DecidableEq, Repr

/-- Data memory (R70): (address, byte) pairs, addresses strictly rising, no entry equal to what an unlisted address reads as
(`Memory.wf`). -/
abbrev Memory := List Host.Cell

/-- What an address that the list leaves out holds. It only fixes which byte value is not written out: a memory of any content
has exactly one list, and what memory holds at power-up is listed (`Memory.powerUp`, log 4). -/
def Memory.unlisted : Byte := 0

/-- Data memory of `n` bytes at power-up (R53, R281): any content, a free value at every address (I12, log 4). -/
def Memory.powerUp (n : Nat) : Memory :=
  ((List.range n).map fun a => (a, Config.powerUp a)).filter fun c => c.2 != Memory.unlisted

/-- The CODED bitmap (R49): the (row j, column i) of every min block whose bit is 1, strictly rising in raster order. -/
abbrev Coded := List (Nat × Nat)

/-- One move of the agents around the block and of its engine (R292). The machine is deterministic: which agent moves next is
plain data, the agenda of the state. -/
inductive Move where
  /-- A host write of `v` to the window at byte offset `off`, `width` bytes wide. -/
  | regWrite (width : Nat) (off : BitVec 12) (v : Word)
  /-- A host read of the window at byte offset `off`, `width` bytes wide. -/
  | regRead (width : Nat) (off : BitVec 12)
  /-- A host write of one byte of data memory. -/
  | memWrite (a : Nat) (v : Byte)
  /-- A host write of a 16-bit value to data memory, little-endian (`m16`, R130). -/
  | memWrite16 (a : Nat) (v : BitVec 16)
  /-- A host read of one byte of data memory. -/
  | memRead (a : Nat)
  /-- RESET (R280). -/
  | reset
  /-- The engine step (R292), enabled when BUSY = 1. -/
  | engine
  deriving DecidableEq, Repr

/-- What a host read returned. -/
inductive HostRead where
  | reg (off : BitVec 12) (v : Word)
  | mem (a : Nat) (v : Byte)
  deriving DecidableEq, Repr

/-- The state of the block, of data memory, and of the host as far as the block sees it. -/
structure State where
  /-- The OPEN parameters (R10 to R12), the ID register's value among them. No step changes them. -/
  params : Config.Params
  /-- STATUS (R35). -/
  status : Status
  /-- CTRL.IRQ_EN (R36). -/
  irqEn : Bool
  /-- CFG0 (R37). -/
  cfg0 : Word
  /-- CFG1 (R38). -/
  cfg1 : Word
  /-- CFG2 (R39). -/
  cfg2 : Word
  /-- MAP_BASE (R40). -/
  mapBase : Word
  /-- PIC_Y_BASE (R41). -/
  picYBase : Word
  /-- PIC_CB_BASE (R41). -/
  picCbBase : Word
  /-- PIC_CR_BASE (R41). -/
  picCrBase : Word
  /-- PIC_Y_STRIDE (R42). -/
  picYStride : Word
  /-- PIC_C_STRIDE (R42). -/
  picCStride : Word
  /-- RESULT0..RESULT3 (R43). -/
  results : Vector Word 4
  /-- ARG0..ARG31 (R44). -/
  args : Vector Word 32
  /-- REFPOC0[0..15] (R45). -/
  refPoc0 : Vector Word 16
  /-- REFPOC1[0..15] (R45). -/
  refPoc1 : Vector Word 16
  /-- CODED (R49). -/
  coded : Coded
  /-- PENDING (R50): the CMD word of the running command. -/
  pending : Word
  /-- Data memory (R70). -/
  mem : Memory
  /-- The model's own: the moves still to be made, the next one first. -/
  agenda : List Move
  /-- The model's own: what the host's reads returned, the latest first. -/
  hostReads : List HostRead
  /-- The model's own: how many commands RESET has cut off, the argument of the free value `Config.freeByte` (log 3). -/
  abandoned : Nat
  deriving DecidableEq, Repr

/-- Why the machine stops with a fault. No command stops so. -/
inductive Fault where
  /-- Raised by a host access to a data-memory address at or above MEM_BYTES, which R70 says does not exist. Safe. -/
  | noSuchAddress
  deriving DecidableEq, Repr

/-- Why a step has no meaning. -/
inductive Refusal where
  /-- An instruction that has no meaning yet. None is left. Safe. -/
  | notModelled (mnemonic : String)
  /-- A host register access that is not 32 bits wide or not at a multiple of 4: R32 and I9 give it no meaning. Raised by the
  host's `regWrite` and `regRead` moves. Safe as far as the host keeps the assumption of I9. -/
  | hostAccessShape
  /-- A host access to data memory that the running command reads or writes: R84 and I10 rule it out. Raised by the host's
  memory moves while BUSY = 1. Safe as far as the host keeps its duty. -/
  | hostMemoryDuty
  deriving DecidableEq, Repr

/-- STATUS at reset (R53): all 0. -/
def Status.reset : Status :=
  { busy := false, done := false, err := false, wign := false, errCode := 0, errOp := 0 }

/-- The machine after reset with the given parameters and data memory (R53): every register 0, CODED clear, the engine IDLE. No
agent has a move to make. -/
def State.resetWith (p : Config.Params) (m : Memory) : State :=
  { params := p
    status := Status.reset
    irqEn := false
    cfg0 := 0
    cfg1 := 0
    cfg2 := 0
    mapBase := 0
    picYBase := 0
    picCbBase := 0
    picCrBase := 0
    picYStride := 0
    picCStride := 0
    results := Vector.replicate 4 0
    args := Vector.replicate 32 0
    refPoc0 := Vector.replicate 16 0
    refPoc1 := Vector.replicate 16 0
    coded := []
    pending := 0
    mem := m
    agenda := []
    hostReads := []
    abandoned := 0 }

/-- The machine right after power-up and reset (R53), with the implementation's parameters (log 1) and the power-up content of data
memory (log 4). -/
def State.reset : State := State.resetWith Config.platform (Memory.powerUp Config.platform.memBytes)

end Sys2Proof.Machine
end

