-- ==== Sys2Proof/Machine/Flags.lean ====
section
/-! DEFINITION. The flags (R48): STATUS as a word, what sets and clears each bit, and the interrupt line. -/

namespace Sys2Proof.Machine

/-- The code of a fault (R250). -/
def ErrCode.code : ErrCode → BitVec 8
  | .illegalCmd => 0x01
  | .config => 0x02
  | .geometry => 0x03
  | .noRef => 0x04
  | .misaligned => 0x05
  | .memRange => 0x06
  | .tableRange => 0x07

/-- STATUS as a host read returns it (R35). -/
def Status.word (t : Status) : Word :=
  (0#8 ++ t.errOp ++ t.errCode ++ 0#4 ++ BitVec.ofBool t.wign ++ BitVec.ofBool t.err ++ BitVec.ofBool t.done ++
    BitVec.ofBool t.busy : BitVec 32)

/-- A host write of STATUS (R35, W1C; R257): a 1 in bit 1 clears DONE, in bit 2 ERR, ERRCODE and ERROP together, in bit 3
WIGN. -/
def Status.writeOneToClear (t : Status) (v : Word) : Status :=
  { t with
    done := t.done && !v.getLsbD 1
    err := t.err && !v.getLsbD 2
    errCode := if v.getLsbD 2 then 0 else t.errCode
    errOp := if v.getLsbD 2 then 0 else t.errOp
    wign := t.wign && !v.getLsbD 3 }

/-- An accepted CMD write (R34): DONE <- 0, BUSY <- 1. -/
def Status.accept (t : Status) : Status := { t with done := false, busy := true }

/-- An ignored write (R34, R47, R259). -/
def Status.ignored (t : Status) : Status := { t with wign := true }

/-- A normal completion (R50): BUSY <- 0, DONE <- 1. -/
def Status.complete (t : Status) : Status := { t with busy := false, done := true }

/-- A completion by a fault (R252), with ERROP <- PENDING[7:0]. -/
def Status.fault (t : Status) (e : ErrCode) (pending : Word) : Status :=
  { t with err := true, errCode := e.code, errOp := pending.extractLsb' 0 8, done := true, busy := false }

/-- The interrupt output (R52, R260): CTRL.IRQ_EN & (STATUS.DONE | STATUS.ERR). -/
def State.irq (s : State) : Bool := s.irqEn && (s.status.done || s.status.err)

end Sys2Proof.Machine
end

