-- ==== Sys2Proof/Machine/Ops.lean ====
section
/-! DEFINITION. The named operations over memory, the CODED bitmap and the state that the commands share: reading and writing
data memory (R72, R75), completing a command (R50), and ending it in a fault (R252). -/

namespace Sys2Proof.Machine

/-! ## Data memory -/

namespace Memory

/-- The canonical form: addresses strictly rising, and no entry equal to what an unlisted address reads as. -/
abbrev wf (m : Memory) : Prop := m.Pairwise (fun c d => c.1 < d.1) ∧ ∀ c ∈ m, c.2 ≠ unlisted

/-- The byte at an address. -/
def read : Memory → Nat → Byte
  | [], _ => unlisted
  | (k, b) :: m, a => if k = a then b else read m a

/-- An entry in front of a memory, left out where it says what an unlisted address reads as. -/
def put (a : Nat) (b : Byte) (m : Memory) : Memory := if b = unlisted then m else (a, b) :: m

/-- A byte written at an address. -/
def write : Memory → Nat → Byte → Memory
  | [], a, b => put a b []
  | (k, c) :: m, a, b =>
    if a < k then put a b ((k, c) :: m) else if a = k then put a b m else (k, c) :: write m a b

/-- MemRead8(a) (R16). -/
def read8 (m : Memory) (a : Int) : Byte := read m a.toNat

/-- MemRead16(a) (R72): the low byte at a, the high byte at a + 1. -/
def read16 (m : Memory) (a : Int) : Int := (read m a.toNat).toNat + 256 * (read m (a.toNat + 1)).toNat

/-- MemRead32(a) (R72). -/
def read32 (m : Memory) (a : Int) : Int := read16 m a + 65536 * read16 m (a + 2)

/-- MemWrite16(a, v) (R16, R72): the low 16 bits of v, v[7:0] at a and v[15:8] at a + 1. -/
def write16 (m : Memory) (a v : Int) : Memory :=
  write (write m a.toNat (BitVec.ofInt 8 v)) (a.toNat + 1) (BitVec.ofInt 8 (asr v 8))

/-- 16-bit stores, (address, value), in order (R17). -/
def writeAll (m : Memory) (stores : List (Int × Int)) : Memory :=
  stores.foldl (fun m w => write16 m w.1 w.2) m

end Memory

/-- `S(base, stride, x, y)` (R75): the byte address of sample (x, y) of a plane, an exact integer. -/
def sampleAddr (base stride x y : Int) : Int := base + 2 * (y * stride + x)

/-- An access of `n` bytes at an address is in range (R75): 0 <= a and a + n <= MEM_BYTES. -/
def State.inRange (s : State) (n : Nat) (a : Int) : Bool := 0 ≤ a && a + n ≤ s.params.memBytes

/-- Every one of these 16-bit accesses is in range. -/
def State.allInRange (s : State) (as : List Int) : Bool := as.all (s.inRange 2)

/-- The positions (row, column) of a block in raster order. -/
def raster (w h : Nat) : List (Nat × Nat) :=
  (List.range h).flatMap fun r => (List.range w).map fun c => (r, c)

/-! ## The CODED bitmap -/

namespace Coded

/-- The raster order of min blocks (row j, column i). -/
def before (a b : Nat × Nat) : Bool := a.1 < b.1 || (a.1 == b.1 && a.2 < b.2)

/-- The canonical form: strictly rising. -/
abbrev wf (c : Coded) : Prop := c.Pairwise (fun a b => before a b = true)

/-- CODED[j][i] (R49). -/
def get (c : Coded) (j i : Nat) : Bool := c.contains (j, i)

/-- CODED[j][i] <- 1. -/
def set : Coded → Nat × Nat → Coded
  | [], b => [b]
  | a :: c, b => if before b a then b :: a :: c else if b = a then a :: c else a :: set c b

/-- CODED[j][i] <- 1 for every min block of a rectangle (R210, the mark). -/
def mark (c : Coded) (j0 i0 nH nW : Nat) : Coded :=
  (raster nW nH).foldl (fun c p => set c (j0 + p.1, i0 + p.2)) c

end Coded

/-! ## Ending a command -/

/-- A command completes normally (R50). -/
def State.complete (s : State) : State := { s with status := s.status.complete }

/-- Taking a fault, the one entry every faulting command shares (R252, R255): STATUS takes ERR, ERRCODE, ERROP and DONE, and
BUSY clears. Nothing else is written. -/
def State.takeFault (s : State) (e : ErrCode) : State := { s with status := s.status.fault e s.pending }

/-- The return from a fault beside it (R257): the host's write to STATUS. It restores nothing else. -/
def State.clearStatus (s : State) (v : Word) : State := { s with status := s.status.writeOneToClear v }

/-- RESULT[i] <- v (R16, R43). -/
def State.setResult (s : State) (i : Fin 4) (v : Int) : State := { s with results := s.results.set i (low32 v) }

/-- The first check that fails decides the code (R253): each entry is a check and the fault it stands for. -/
def firstFault : List (Bool × ErrCode) → Option ErrCode
  | [] => none
  | (ok, e) :: rest => if ok then firstFault rest else some e

/-- The state in which a command ends (R251, R252): a failing check ends it in that fault, and otherwise its whole effect lands
and it completes (R50). -/
def State.finish (s : State) (fault : Option ErrCode) (effect : State → State) : State :=
  match fault with
  | some e => s.takeFault e
  | none => (effect s).complete

/-- The one shape every command has: its checks come before its first write (R252), and all of it is one transition (R292). -/
def runCommand (fault : State → Option ErrCode) (effect : State → State) (s : State) : Host.Outcome State Fault Refusal :=
  .next (s.finish (fault s) effect)

end Sys2Proof.Machine
end

