-- ==== Sys2Proof/Machine/Control.lean ====
section
/-! DEFINITION. The control commands: NOP (42_control.md) and DF_PASS_BEGIN (41_deblock.md R208). Neither has a check. -/

namespace Sys2Proof.Machine

/-- NOP (R240): no effect but its completion. -/
def execNop (s : State) : Host.Outcome State Fault Refusal := runCommand (fun _ => none) id s

/-- R208: every bit of CODED clears. -/
def effectDfPassBegin (s : State) : State := { s with coded := [] }

/-- DF_PASS_BEGIN (R208). -/
def execDfPassBegin (s : State) : Host.Outcome State Fault Refusal := runCommand (fun _ => none) effectDfPassBegin s

end Sys2Proof.Machine
end

