-- ==== Sys2Proof/Machine/Operands.lean ====
section
/-! DEFINITION. Every operand form of the spec: the fields of the configuration registers (R37 to R42), the quantities and
predicates derived from them (R19, R54, R55), and the operand layout of each command in the ARG registers (R105 to R121). -/

namespace Sys2Proof.Machine

/-! ## Reading an ARG (R105) -/

/-- ARGi read as `u32`. -/
def State.u32 (s : State) (i : Fin 32) : Int := zext32 s.args[i]

/-- ARGi read as `u32`, where it counts something. -/
def State.count (s : State) (i : Fin 32) : Nat := (s.args[i]).toNat

/-- ARGi read as `s32`. -/
def State.s32 (s : State) (i : Fin 32) : Int := sext32 s.args[i]

/-! ## Configuration fields (R37 to R42) and derived quantities (R54) -/

/-- CFG0.BITDEPTH_Y (R37). -/
def State.bitDepthY (s : State) : Nat := bits s.cfg0 0 4

/-- CFG0.BITDEPTH_C (R37). -/
def State.bitDepthC (s : State) : Nat := bits s.cfg0 4 4

/-- CFG0.CHROMA_FMT (R37). -/
def State.chromaFmt (s : State) : Nat := bits s.cfg0 8 2

/-- CFG0.LOG2_CTU (R37). -/
def State.log2Ctu (s : State) : Nat := bits s.cfg0 12 4

/-- CFG0.LOG2_MINCU (R37). -/
def State.log2MinCu (s : State) : Nat := bits s.cfg0 16 4

/-- CFG1.PIC_W (R38). -/
def State.picW (s : State) : Nat := bits s.cfg1 0 16

/-- CFG1.PIC_H (R38). -/
def State.picH (s : State) : Nat := bits s.cfg1 16 16

/-- QPOFF[pl] (R39, R54). -/
def State.qpOff (s : State) : ChromaPlane → Int
  | .cb => sext8 (s.cfg2.extractLsb' 0 8)
  | .cr => sext8 (s.cfg2.extractLsb' 8 8)

/-- MAXCU (R54). -/
def State.maxCu (s : State) : Nat := 2 ^ s.log2Ctu

/-- W_SCU (R54). -/
def State.wScu (s : State) : Nat := s.picW / 4

/-- H_SCU (R54). -/
def State.hScu (s : State) : Nat := s.picH / 4

/-- The picture has chroma planes (R19): CHROMA_FMT != 0. -/
def State.hasChroma (s : State) : Bool := s.chromaFmt != 0

/-- ws, the horizontal chroma shift (R19): 1 under 4:2:0 and 4:2:2. -/
def State.ws (s : State) : Nat := if s.chromaFmt = 1 ∨ s.chromaFmt = 2 then 1 else 0

/-- hs, the vertical chroma shift (R19): 1 under 4:2:0. -/
def State.hs (s : State) : Nat := if s.chromaFmt = 1 then 1 else 0

/-- PIC_CB_BASE or PIC_CR_BASE (R41). -/
def State.picChromaBase (s : State) : ChromaPlane → Int
  | .cb => zext32 s.picCbBase
  | .cr => zext32 s.picCrBase

/-! ## Configuration predicates (R55) -/

/-- okBD (R55). -/
def okBD (b : Nat) : Bool := b == 8 || (10 ≤ b && b ≤ 14)

/-- cfgLuma (R55). -/
def State.cfgLuma (s : State) : Bool := okBD s.bitDepthY

/-- cfgChroma (R55). -/
def State.cfgChroma (s : State) : Bool := okBD s.bitDepthC && s.hasChroma

/-- cfgPic (R55). -/
def State.cfgPic (s : State) : Bool :=
  4 ≤ s.picW && 4 ≤ s.picH && s.picW % 4 == 0 && s.picH % 4 == 0 && 2 ≤ s.log2Ctu && s.log2Ctu ≤ 7 && s.log2MinCu == 2

/-- cfgBlk (R55). -/
def State.cfgBlk (s : State) : Bool := s.cfgPic && s.cfgLuma && (!s.hasChroma || okBD s.bitDepthC)

/-- cfgDF (R55). -/
def State.cfgDF (s : State) : Bool := s.cfgBlk && s.picW ≤ s.params.maxPicW && s.picH ≤ s.params.maxPicH

/-! ## Operand layouts -/

/-- A block size is legal (R125): 1 <= W <= MAX_BLK and 1 <= H <= MAX_BLK. -/
def sizeOk (w h : Nat) : Bool := 1 ≤ w && w ≤ Config.maxBlk && 1 ≤ h && h ≤ Config.maxBlk

/-- The operands of MC_PRED_LUMA (R111) and MC_PRED_CHROMA (R112). -/
structure PredOperands where
  ref : Int
  rstr : Int
  dst : Int
  dstr : Int
  x : Int
  y : Int
  mvx : Int
  mvy : Int
  w : Nat
  h : Nat
  deriving DecidableEq, Repr

/-- R111. -/
def State.predOperands (s : State) : PredOperands :=
  { ref := s.u32 0, rstr := s.u32 1, dst := s.u32 2, dstr := s.u32 3, x := s.s32 4, y := s.s32 5, mvx := s.s32 6,
    mvy := s.s32 7, w := s.count 8, h := s.count 9 }

/-- The operands of MC_BI_AVG (R113). -/
structure BiOperands where
  src0 : Int
  s0str : Int
  src1 : Int
  s1str : Int
  dst : Int
  dstr : Int
  w : Nat
  h : Nat
  deriving DecidableEq, Repr

/-- R113. -/
def State.biOperands (s : State) : BiOperands :=
  { src0 := s.u32 0, s0str := s.u32 1, src1 := s.u32 15, s1str := s.u32 16, dst := s.u32 2, dstr := s.u32 3,
    w := s.count 8, h := s.count 9 }

/-- A block of the picture, as MC_MV_CLIP (R114), MC_BLOCK (R115) and DF_CU_HOR and DF_CU_VER (R121) take it. -/
structure BlockOperands where
  x : Int
  y : Int
  w : Nat
  h : Nat
  deriving DecidableEq, Repr

/-- R114, R115, R121: ARG4 X, ARG5 Y, ARG8 W, ARG9 H. -/
def State.blockOperands (s : State) : BlockOperands :=
  { x := s.s32 4, y := s.s32 5, w := s.count 8, h := s.count 9 }

/-- A motion vector in quarter-luma-sample units (R106). -/
structure Mv where
  x : Int
  y : Int
  deriving DecidableEq, Repr

/-- What MC_BLOCK reads of one reference list (R115): the bases of its planes, its motion vector and its POC. -/
structure RefList where
  lumaBase : Int
  cbBase : Int
  crBase : Int
  mv : Mv
  poc : Int
  deriving DecidableEq, Repr

/-- R115, list 0. -/
def State.list0 (s : State) : RefList :=
  { lumaBase := s.u32 0, cbBase := s.u32 17, crBase := s.u32 18, mv := ⟨s.s32 6, s.s32 7⟩, poc := s.s32 11 }

/-- R115, list 1. -/
def State.list1 (s : State) : RefList :=
  { lumaBase := s.u32 19, cbBase := s.u32 20, crBase := s.u32 21, mv := ⟨s.s32 13, s.s32 14⟩, poc := s.s32 12 }

/-- FLAGS.USE0 (R115). -/
def State.use0 (s : State) : Bool := (s.args[10]).getLsbD 0

/-- FLAGS.USE1 (R115). -/
def State.use1 (s : State) : Bool := (s.args[10]).getLsbD 1

/-- The operands of DF_EDGE_LUMA (R117) and DF_EDGE_CHROMA (R118). -/
structure EdgeOperands where
  addr : Int
  xstep : Int
  lstep : Int
  count : Nat
  st : Nat
  deriving DecidableEq, Repr

/-- R117. -/
def State.edgeOperands (s : State) : EdgeOperands :=
  { addr := s.u32 0, xstep := s.s32 1, lstep := s.s32 2, count := s.count 3, st := s.count 4 }

/-! ## The metadata map (R78, R79) -/

/-- A map record (R79, R190). -/
structure Meta where
  intra : Bool
  cbf : Bool
  qp : Int
  refi0 : Int
  refi1 : Int
  mv0 : Mv
  mv1 : Mv
  deriving DecidableEq, Repr

/-- `Meta(r)` (R79, R190). -/
def Memory.recordAt (m : Memory) (r : Int) : Meta :=
  { intra := (m.read8 r).getLsbD 0
    cbf := (m.read8 r).getLsbD 1
    qp := sext8 (m.read8 (r + 1))
    refi0 := sext8 (m.read8 (r + 2))
    refi1 := sext8 (m.read8 (r + 3))
    mv0 := ⟨sext16 (m.read16 (r + 4)), sext16 (m.read16 (r + 6))⟩
    mv1 := ⟨sext16 (m.read16 (r + 8)), sext16 (m.read16 (r + 10))⟩ }

/-- How many bytes of a map record are read (R190): r..r+11. -/
def recordBytes : Nat := 12

/-- `MAPREC(i, j)` (R78): the record of column i, row j. -/
def State.mapRec (s : State) (i j : Int) : Int := zext32 s.mapBase + 16 * (j * s.wScu + i)

end Sys2Proof.Machine
end

