-- ==== Sys2Proof/Machine/Edge.lean ====
section
/-! DEFINITION. The functions the deblocking commands share (41_deblock.md section 1): boundary-strength classification, the
threshold, the chroma QP, and the luma and chroma line filters. -/

namespace Sys2Proof.Machine

/-! ## Boundary strength -/

/-- A reference picture (R191): NONE, or a POC. -/
abbrev Picture := Option Int

/-- `pic(L, i)` (R191): NONE for i < 0, REFPOCL[i] for 0 <= i < MAX_REF. The outer `none` is E_TABLE_RANGE, i >= MAX_REF. -/
def picOf (poc : Vector Word 16) (i : Int) : Option Picture :=
  if i < 0 then some none
  else match poc[i.toNat]? with
    | some w => some (some (sext32 w))
    | none => none

/-- `near(a, b)` (R192). -/
def near (a b : Mv) : Bool := iabs (a.x - b.x) < 4 && iabs (a.y - b.y) < 4

/-- The comparison of reference pictures and vectors (R192, from `straight` on): 3 where one arrangement of the lists holds
with every used vector near, else 2. -/
def motionClass (p0 p1 q0 q1 : Picture) (p q : Meta) : Nat :=
  let straight := p0 == q0 && p1 == q1
  let swapped := p0 == q1 && p1 == q0
  let okS := straight && (p0 == none || near p.mv0 q.mv0) && (p1 == none || near p.mv1 q.mv1)
  let okX := swapped && (p0 == none || near p.mv0 q.mv1) && (p1 == none || near p.mv1 q.mv0)
  if okS || okX then 3 else 2

/-- `bs(P, Q)` (R192). `none` is E_TABLE_RANGE: the reference pictures are looked up only after the intra and residual tests. -/
def State.bs (s : State) (p q : Meta) : Option Nat :=
  if p.intra || q.intra then some 0
  else if p.cbf || q.cbf then some 1
  else
    match picOf s.refPoc0 p.refi0, picOf s.refPoc1 p.refi1, picOf s.refPoc0 q.refi0, picOf s.refPoc1 q.refi1 with
    | some p0, some p1, some q0, some q1 => some (motionClass p0 p1 q0 q1 p q)
    | _, _, _, _ => none

/-! ## Thresholds and the chroma QP -/

/-- DF_ST[c][q] (R12), for q in DF_QP_MIN..DF_QP_MAX; `none` outside. -/
def dfSt (p : Config.Params) (c : Nat) (q : Int) : Option Nat :=
  if p.dfQpMin ≤ q ∧ q ≤ p.dfQpMax then some (((p.dfSt[c]?.getD [])[(q - p.dfQpMin).toNat]?).getD 0) else none

/-- DF_SHIFT(bd) (R12). -/
def dfShift (p : Config.Params) (bd : Nat) : Nat := (p.dfShift[bd - 8]?).getD 0

/-- `thr(c, q, bd)` (R194). `none` is E_TABLE_RANGE. -/
def State.thr (s : State) (c : Nat) (q : Int) (bd : Nat) : Option Nat :=
  (dfSt s.params c q).map fun t => t * 2 ^ dfShift s.params bd

/-- CHROMA_QP_MAP[pl] (R12). -/
def qpMap (p : Config.Params) : ChromaPlane → Vector Int 94
  | .cb => p.qpMapCb
  | .cr => p.qpMapCr

/-- `qpcClip(q, pl)` (R204). -/
def State.qpcClip (s : State) (q : Int) (pl : ChromaPlane) : Int :=
  clip3 (-6 * ((s.bitDepthC : Int) - 8)) 57 (q + s.qpOff pl)

/-- `qpc(q, pl)` (R204): the clipped QP's entry in CHROMA_QP_MAP[pl], whose first entry is that of q = -36 (log 10). -/
def State.qpc (s : State) (q : Int) (pl : ChromaPlane) : Int :=
  ((qpMap s.params pl)[(s.qpcClip q pl + 36).toNat]?).getD 0

/-! ## The line filters -/

/-- d, the gradient across the edge (R196). -/
def edgeDelta (a b c d : Int) : Int := tdiv (a - 4 * b + 4 * c - d) 8

/-- cl, the clamped magnitude (R196, R198). -/
def edgeClamp (d st : Int) : Int := max 0 (iabs d - max 0 (2 * (iabs d - st)))

/-- d1 (R196). -/
def edgeD1 (d st : Int) : Int := sgn d * edgeClamp d st

/-- d2 (R196). -/
def edgeD2 (cl a d : Int) : Int := clip3 (-(asr cl 1)) (asr cl 1) (tdiv (a - d) 4)

/-- The four samples across an edge. -/
structure Line where
  a : Int
  b : Int
  c : Int
  d : Int
  deriving DecidableEq, Repr

/-- `FL` (R196): the luma line filter. -/
def filterLuma (l : Line) (st : Int) (bd : Nat) : Line :=
  let d := edgeDelta l.a l.b l.c l.d
  let d1 := edgeD1 d st
  let d2 := edgeD2 (edgeClamp d st) l.a l.d
  { a := clipS bd (l.a - d2), b := clipS bd (l.b + d1), c := clipS bd (l.c - d1), d := clipS bd (l.d + d2) }

/-- `FC` (R197): the chroma line filter, the new B and C. -/
def filterChroma (l : Line) (st : Int) (bd : Nat) : Int × Int :=
  let d1 := edgeD1 (edgeDelta l.a l.b l.c l.d) st
  (clipS bd (l.b + d1), clipS bd (l.c - d1))

/-! ## Lines in memory -/

/-- One line to filter: the addresses of its four samples, its threshold, its bit depth, and which filter it takes. -/
structure EdgeLine where
  luma : Bool
  aA : Int
  aB : Int
  aC : Int
  aD : Int
  st : Nat
  bd : Nat
  deriving DecidableEq, Repr

/-- The samples a line reads. -/
def EdgeLine.reads (e : EdgeLine) : List Int := [e.aA, e.aB, e.aC, e.aD]

/-- The samples a line writes (R200, R202): all four, or B and C alone. -/
def EdgeLine.writes (e : EdgeLine) : List Int := if e.luma then [e.aA, e.aB, e.aC, e.aD] else [e.aB, e.aC]

/-- The samples of a line as memory holds them. -/
def EdgeLine.load (e : EdgeLine) (m : Memory) : Line :=
  { a := m.read16 e.aA, b := m.read16 e.aB, c := m.read16 e.aC, d := m.read16 e.aD }

/-- The stores of a line, in order (R200, R202), from the memory it finds. -/
def EdgeLine.stores (e : EdgeLine) (m : Memory) : List (Int × Int) :=
  if e.luma then
    let l := filterLuma (e.load m) e.st e.bd
    [(e.aA, l.a), (e.aB, l.b), (e.aC, l.c), (e.aD, l.d)]
  else
    let bc := filterChroma (e.load m) e.st e.bd
    [(e.aB, bc.1), (e.aC, bc.2)]

/-- One line filtered: its four reads come before its writes (R83 (c)). -/
def filterLine (m : Memory) (e : EdgeLine) : Memory := m.writeAll (e.stores m)

/-- Lines filtered one after another, each seeing the writes of every earlier one (R83 (c)). -/
def filterLines (m : Memory) (es : List EdgeLine) : Memory := es.foldl filterLine m

end Sys2Proof.Machine
end

