-- ==== Sys2Proof/Machine/Deblock.lean ====
section
/-! DEFINITION. The deblocking commands (41_deblock.md sections 2 to 5), but for DF_PASS_BEGIN. -/

namespace Sys2Proof.Machine

/-! ## DF_BS (R195) -/

/-- The two records DF_BS classifies (R116). -/
def State.bsRecords (s : State) : Meta × Meta := (s.mem.recordAt (s.u32 0), s.mem.recordAt (s.u32 1))

/-- The class DF_BS computes; `none` is E_TABLE_RANGE. -/
def State.bsCommand (s : State) : Option Nat := s.bs s.bsRecords.1 s.bsRecords.2

/-- The checks of R125 and R195: bytes r..r+11 of both records are in range. -/
def faultDfBs (s : State) : Option ErrCode :=
  firstFault
    [(even (s.u32 0) && even (s.u32 1), .misaligned),
     (s.inRange recordBytes (s.u32 0) && s.inRange recordBytes (s.u32 1), .memRange),
     (s.bsCommand.isSome, .tableRange)]

/-- The effect: RESULT0 takes the class. -/
def effectDfBs (s : State) : State := s.setResult 0 (s.bsCommand.getD 0)

/-- DF_BS (R195). -/
def execDfBs (s : State) : Host.Outcome State Fault Refusal := runCommand faultDfBs effectDfBs s

/-! ## DF_EDGE_LUMA (R200) and DF_EDGE_CHROMA (R202) -/

/-- Line k of a direct edge-filter command (R200). -/
def State.edgeLine (s : State) (luma : Bool) (bd : Nat) (k : Nat) : EdgeLine :=
  let o := s.edgeOperands
  let c := o.addr + 2 * (k : Int) * o.lstep
  { luma := luma, aA := c - 4 * o.xstep, aB := c - 2 * o.xstep, aC := c, aD := c + 2 * o.xstep, st := o.st, bd := bd }

/-- The COUNT lines, in order. -/
def State.edgeLines (s : State) (luma : Bool) (bd : Nat) : List EdgeLine :=
  (List.range s.edgeOperands.count).map (s.edgeLine luma bd)

/-- The lines of DF_EDGE_LUMA. -/
def State.edgeLumaLines (s : State) : List EdgeLine := s.edgeLines true s.bitDepthY

/-- The lines of DF_EDGE_CHROMA. -/
def State.edgeChromaLines (s : State) : List EdgeLine := s.edgeLines false s.bitDepthC

/-- The checks of R125 for both, given the bit-depth check and the lines. -/
def edgeFault (configOk : State → Bool) (lines : State → List EdgeLine) (s : State) : Option ErrCode :=
  let o := s.edgeOperands
  firstFault
    [(configOk s, .config),
     (1 ≤ o.count && o.count ≤ Config.maxLines, .geometry),
     (even o.addr, .misaligned),
     (s.allInRange ((lines s).flatMap EdgeLine.reads), .memRange)]

/-- The effect of both: the lines are filtered in order. -/
def edgeEffect (lines : State → List EdgeLine) (s : State) : State := { s with mem := filterLines s.mem (lines s) }

/-- R200: cfgLuma. -/
def faultDfEdgeLuma : State → Option ErrCode := edgeFault State.cfgLuma State.edgeLumaLines

/-- R202: okBD(BITDEPTH_C). -/
def faultDfEdgeChroma : State → Option ErrCode := edgeFault (fun s => okBD s.bitDepthC) State.edgeChromaLines

/-- DF_EDGE_LUMA (R200). -/
def execDfEdgeLuma (s : State) : Host.Outcome State Fault Refusal :=
  runCommand faultDfEdgeLuma (edgeEffect State.edgeLumaLines) s

/-- DF_EDGE_CHROMA (R202). -/
def execDfEdgeChroma (s : State) : Host.Outcome State Fault Refusal :=
  runCommand faultDfEdgeChroma (edgeEffect State.edgeChromaLines) s

/-! ## DF_QPC (R205) -/

/-- The check of R125: okBD(BITDEPTH_C). -/
def faultDfQpc (s : State) : Option ErrCode := firstFault [(okBD s.bitDepthC, .config)]

/-- The effect: RESULT1 takes the clipped QP and RESULT0 the remapped one. -/
def effectDfQpc (pl : ChromaPlane) (s : State) : State :=
  (s.setResult 1 (s.qpcClip (s.s32 0) pl)).setResult 0 (s.qpc (s.s32 0) pl)

/-- DF_QPC.cb (R205, PLANE = 1). -/
def execDfQpcCb (s : State) : Host.Outcome State Fault Refusal := runCommand faultDfQpc (effectDfQpc .cb) s

/-- DF_QPC.cr (R205, PLANE = 2). -/
def execDfQpcCr (s : State) : Host.Outcome State Fault Refusal := runCommand faultDfQpc (effectDfQpc .cr) s

/-! ## DF_CU_HOR (R210) and DF_CU_VER (R211) -/

/-- The two passes (R18): `hor` filters a top edge, `ver` a left edge. -/
inductive Pass where
  | hor
  | ver
  deriving DecidableEq, Repr

/-- i0 (R210): the column of the CU's top-left min block. -/
def State.cuCol (s : State) : Nat := (asr s.blockOperands.x 2).toNat

/-- j0 (R210): its row. -/
def State.cuRow (s : State) : Nat := (asr s.blockOperands.y 2).toNat

/-- nW (R210): the CU's width in min blocks. -/
def State.cuCols (s : State) : Nat := s.blockOperands.w / 4

/-- nH (R210): its height in min blocks. -/
def State.cuRows (s : State) : Nat := s.blockOperands.h / 4

/-- The geometry of a CU (R125). -/
def State.cuGeometry (s : State) : Bool :=
  let b := s.blockOperands
  0 ≤ b.x && 0 ≤ b.y && b.x % 4 == 0 && b.y % 4 == 0 && b.w % 4 == 0 && b.h % 4 == 0 &&
  4 ≤ b.w && b.w ≤ s.maxCu && 4 ≤ b.h && b.h ≤ s.maxCu && b.x + b.w ≤ s.picW && b.y + b.h ≤ s.picH

/-- The bases of R125: MAP_BASE and the picture planes. -/
def State.cuBasesEven (s : State) : Bool :=
  even (zext32 s.mapBase) && even (zext32 s.picYBase) &&
    (!s.hasChroma || (even (zext32 s.picCbBase) && even (zext32 s.picCrBase)))

/-- The neighbour test (R207): the edge is filtered. -/
def State.edgeFiltered (s : State) : Pass → Bool
  | .hor => 0 < s.blockOperands.y && s.coded.get (s.cuRow - 1) s.cuCol
  | .ver => 0 < s.blockOperands.x && s.coded.get s.cuRow (s.cuCol - 1)

/-- How many segments the edge has (R210, R211). -/
def State.segments (s : State) : Pass → Nat
  | .hor => s.cuCols
  | .ver => s.cuRows

/-- The address of the record of P, the block before the edge, in segment k (R210, R211). -/
def State.recP (s : State) (p : Pass) (k : Nat) : Int :=
  match p with
  | .hor => s.mapRec (s.cuCol + k) (s.cuRow - 1)
  | .ver => s.mapRec (s.cuCol - 1) (s.cuRow + k)

/-- The address of the record of Q, the block inside the CU, in segment k. -/
def State.recQ (s : State) (p : Pass) (k : Nat) : Int :=
  match p with
  | .hor => s.mapRec (s.cuCol + k) s.cuRow
  | .ver => s.mapRec s.cuCol (s.cuRow + k)

/-- The thresholds of a segment (R210): luma, and those of the chroma planes where there are any. -/
structure SegThr where
  luma : Nat
  cb : Nat
  cr : Nat
  deriving DecidableEq, Repr

/-- Segment k's thresholds (R209, R210). The QP is that of Q (R206). `none` is E_TABLE_RANGE. -/
def State.segThr (s : State) (p : Pass) (k : Nat) : Option SegThr :=
  let mp := s.mem.recordAt (s.recP p k)
  let mq := s.mem.recordAt (s.recQ p k)
  (s.bs mp mq).bind fun c =>
  (s.thr c mq.qp s.bitDepthY).bind fun y =>
  if s.hasChroma then
    (s.thr c (s.qpc mq.qp .cb) s.bitDepthC).bind fun cb =>
    (s.thr c (s.qpc mq.qp .cr) s.bitDepthC).map fun cr => ⟨y, cb, cr⟩
  else some ⟨y, 0, 0⟩

/-- A line across the edge of a plane at position `along` on it: `across` is the coordinate of sample C. -/
def crossLine (p : Pass) (luma : Bool) (base stride : Int) (along across : Int) (st bd : Nat) : EdgeLine :=
  let at' := fun t : Int => match p with
    | .hor => sampleAddr base stride along (across + t)
    | .ver => sampleAddr base stride (across + t) along
  { luma := luma, aA := at' (-2), aB := at' (-1), aC := at' 0, aD := at' 1, st := st, bd := bd }

/-- The coordinate along the edge of the CU's first sample: X for a horizontal edge, Y for a vertical one. -/
def State.alongOf (s : State) : Pass → Int
  | .hor => s.blockOperands.x
  | .ver => s.blockOperands.y

/-- The coordinate of the edge: Y for a horizontal edge, X for a vertical one. -/
def State.acrossOf (s : State) : Pass → Int
  | .hor => s.blockOperands.y
  | .ver => s.blockOperands.x

/-- The chroma shift along the edge (R212): ws for a horizontal edge, hs for a vertical one. -/
def State.alongShift (s : State) : Pass → Nat
  | .hor => s.ws
  | .ver => s.hs

/-- The chroma shift across the edge. -/
def State.acrossShift (s : State) : Pass → Nat
  | .hor => s.hs
  | .ver => s.ws

/-- The 4 luma lines of segment k (R210, R211). -/
def State.lumaLines (s : State) (p : Pass) (k st : Nat) : List EdgeLine :=
  (List.range 4).map fun l : Nat =>
    crossLine p true (zext32 s.picYBase) (zext32 s.picYStride) (s.alongOf p + 4 * k + l) (s.acrossOf p) st s.bitDepthY

/-- The chroma lines of segment k in one plane (R210 to R212): nL = 4 >> ws or 4 >> hs of them. -/
def State.chromaLines (s : State) (p : Pass) (pl : ChromaPlane) (k st : Nat) : List EdgeLine :=
  let nL := 4 / 2 ^ s.alongShift p
  (List.range nL).map fun l : Nat =>
    crossLine p false (s.picChromaBase pl) (zext32 s.picCStride) (asr (s.alongOf p) (s.alongShift p) + nL * k + l)
      (asr (s.acrossOf p) (s.acrossShift p)) st s.bitDepthC

/-- The lines of segment k (R212): luma, then Cb, then Cr. -/
def State.segLines (s : State) (p : Pass) (k : Nat) : List EdgeLine :=
  let t := (s.segThr p k).getD ⟨0, 0, 0⟩
  s.lumaLines p k t.luma ++ if s.hasChroma then s.chromaLines p .cb k t.cb ++ s.chromaLines p .cr k t.cr else []

/-- The lines of the edge, segment after segment (R212); none where the edge is not filtered (R207). -/
def State.cuLines (s : State) (p : Pass) : List EdgeLine :=
  if s.edgeFiltered p then (List.range (s.segments p)).flatMap (s.segLines p) else []

/-- The records the command reads (R209): both of every segment, where the edge is filtered. -/
def State.cuRecords (s : State) (p : Pass) : List Int :=
  if s.edgeFiltered p then (List.range (s.segments p)).flatMap fun k => [s.recP p k, s.recQ p k] else []

/-- Every class and threshold of the edge exists (R209). -/
def State.cuTablesOk (s : State) (p : Pass) : Bool :=
  !s.edgeFiltered p || (List.range (s.segments p)).all fun k => (s.segThr p k).isSome

/-- The checks of R125 and R209. -/
def cuFault (p : Pass) (s : State) : Option ErrCode :=
  firstFault
    [(s.cfgDF, .config),
     (s.cuGeometry, .geometry),
     (s.cuBasesEven, .misaligned),
     ((s.cuRecords p).all (s.inRange recordBytes) && s.allInRange ((s.cuLines p).flatMap EdgeLine.reads), .memRange),
     (s.cuTablesOk p, .tableRange)]

/-- The effect (R210, R211): the lines are filtered, and the whole CU is marked coded (R213). -/
def cuEffect (p : Pass) (s : State) : State :=
  { s with
    mem := filterLines s.mem (s.cuLines p)
    coded := s.coded.mark s.cuRow s.cuCol s.cuRows s.cuCols }

/-- R210. -/
def faultDfCuHor : State → Option ErrCode := cuFault .hor

/-- R211. -/
def faultDfCuVer : State → Option ErrCode := cuFault .ver

/-- DF_CU_HOR (R210). -/
def execDfCuHor (s : State) : Host.Outcome State Fault Refusal := runCommand faultDfCuHor (cuEffect .hor) s

/-- DF_CU_VER (R211). -/
def execDfCuVer (s : State) : Host.Outcome State Fault Refusal := runCommand faultDfCuVer (cuEffect .ver) s

end Sys2Proof.Machine
end

