-- ==== Sys2Proof/Machine/Predict.lean ====
section
/-! DEFINITION. Sub-pixel prediction of one plane from one reference list: the arithmetic the motion-compensation commands
share (R140 to R149 for luma, R151 to R156 for chroma, which has an identical structure). -/

namespace Sys2Proof.Machine

/-! ## Position split -/

/-- The integer position and the phase of a position in 1/2^n sample units (R141, R142). -/
def splitAt (n : Nat) (pos : Int) : Int × Nat := (asr pos n, (lowBits pos n).toNat)

/-- R141: X16 = (X << 4) + (MVX << 2), in 1/16 luma samples. -/
def lumaSplit (x mv : Int) : Int × Nat := splitAt 4 (shl x 4 + shl mv 2)

/-- R142: X32 = (Xc << 5) + (MVX << (3 - ws)), in 1/32 chroma samples. -/
def chromaSplit (shift : Nat) (x mv : Int) : Int × Nat := splitAt 5 (shl x 5 + shl mv (3 - shift))

/-! ## The filters -/

/-- The shape of an interpolation filter: how many taps, how many samples before the integer position the first one reads, and
the coefficient of each phase and tap. -/
structure Filter where
  taps : Nat
  lead : Nat
  coef : Nat → Nat → Int

/-- The 8-tap luma filter (R11, R146): tap k reads the sample at offset k - 3. -/
def lumaFilter (p : Config.Params) : Filter := { taps := 8, lead := 3, coef := p.luma }

/-- The 4-tap chroma filter (R11, R152): tap k reads the sample at offset k - 1. -/
def chromaFilter (p : Config.Params) : Filter := { taps := 4, lead := 1, coef := p.chroma }

/-- The sum of one filter row over the samples `f 0, f 1, ...` at its taps. -/
def Filter.sum (g : Filter) (phase : Nat) (f : Nat → Int) : Int :=
  ((List.range g.taps).map fun k => g.coef phase k * f k).sum

/-- SH (R143). -/
def singleShift : Nat := 6

/-- OF (R143). -/
def singleOffset : Int := 32

/-- s1 (R143). -/
def firstShift (bd : Nat) : Nat := min 4 (bd - 8)

/-- o1 (R143): (1 << s1) >> 1. -/
def firstOffset (bd : Nat) : Int := asr (shl 1 (firstShift bd)) 1

/-- s2 (R143). -/
def secondShift (bd : Nat) : Nat := max 8 (20 - bd)

/-- o2 (R143): 1 << (s2 - 1). -/
def secondOffset (bd : Nat) : Int := shl 1 (secondShift bd - 1)

/-- Where a prediction reads: the sample (x, y) of the reference plane, and the integer position and phase on both axes. -/
structure Position where
  xi : Int
  fx : Nat
  yi : Int
  fy : Nat
  deriving DecidableEq, Repr

/-- Integer copy (R145, R151): no filter and no clip. -/
def copySample (ref : Int → Int → Int) (p : Position) (r c : Int) : Int := ref (p.xi + c) (p.yi + r)

/-- Horizontal only (R146, R152). -/
def horSample (g : Filter) (bd : Nat) (ref : Int → Int → Int) (p : Position) (r c : Int) : Int :=
  clipS bd (asr (g.sum p.fx (fun k => ref (p.xi + c - g.lead + k) (p.yi + r)) + singleOffset) singleShift)

/-- Vertical only (R147, R153). -/
def verSample (g : Filter) (bd : Nat) (ref : Int → Int → Int) (p : Position) (r c : Int) : Int :=
  clipS bd (asr (g.sum p.fy (fun k => ref (p.xi + c) (p.yi + r - g.lead + k)) + singleOffset) singleShift)

/-- T[r][c] of the two-pass filter (R148, R154): the horizontal pass, not clipped. -/
def firstPass (g : Filter) (bd : Nat) (ref : Int → Int → Int) (p : Position) (r c : Int) : Int :=
  asr (g.sum p.fx (fun k => ref (p.xi + c - g.lead + k) (p.yi + r)) + firstOffset bd) (firstShift bd)

/-- Two-pass (R148, R154): the vertical pass over T. -/
def twoPassSample (g : Filter) (bd : Nat) (ref : Int → Int → Int) (p : Position) (r c : Int) : Int :=
  clipS bd (asr (g.sum p.fy (fun k => firstPass g bd ref p (r - g.lead + k) c) + secondOffset bd) (secondShift bd))

/-- Case dispatch (R144): the output sample O[r][c]. -/
def predSample (g : Filter) (bd : Nat) (ref : Int → Int → Int) (p : Position) (r c : Int) : Int :=
  if p.fx = 0 then
    if p.fy = 0 then copySample ref p r c else verSample g bd ref p r c
  else
    if p.fy = 0 then horSample g bd ref p r c else twoPassSample g bd ref p r c

/-! ## One prediction -/

/-- One plane predicted from one reference: the reference plane, the block's origin and size in that plane's samples, and the
motion vector. -/
structure Prediction where
  chroma : Bool
  refBase : Int
  refStride : Int
  x : Int
  y : Int
  w : Nat
  h : Nat
  mv : Mv
  deriving DecidableEq, Repr

/-- The filter of a prediction. -/
def State.filterOf (s : State) (q : Prediction) : Filter :=
  if q.chroma then chromaFilter s.params else lumaFilter s.params

/-- bd (R143): BITDEPTH_Y for luma, BITDEPTH_C for chroma. -/
def State.depthOf (s : State) (q : Prediction) : Nat := if q.chroma then s.bitDepthC else s.bitDepthY

/-- The position a prediction reads at (R141, R142). -/
def State.positionOf (s : State) (q : Prediction) : Position :=
  let hx := if q.chroma then chromaSplit s.ws q.x q.mv.x else lumaSplit q.x q.mv.x
  let vy := if q.chroma then chromaSplit s.hs q.y q.mv.y else lumaSplit q.y q.mv.y
  { xi := hx.1, fx := hx.2, yi := vy.1, fy := vy.2 }

/-- `Ref(x, y)` (R140). -/
def State.refSample (s : State) (q : Prediction) (x y : Int) : Int :=
  s.mem.read16 (sampleAddr q.refBase q.refStride x y)

/-- The output sample O[r][c] of a prediction, from memory as it stands (R83 (a)). -/
def State.predict (s : State) (q : Prediction) (r c : Int) : Int :=
  predSample (s.filterOf q) (s.depthOf q) (s.refSample q) (s.positionOf q) r c

/-- One axis of the read set (R149, R156): `n` samples from the integer position, and the context of the taps where the phase
is not zero. -/
def axisReads (g : Filter) (pos : Int) (phase n : Nat) : List Int :=
  if phase = 0 then (List.range n).map fun i : Nat => pos + (i : Int)
  else (List.range (n + g.taps - 1)).map fun i : Nat => pos - g.lead + (i : Int)

/-- The addresses of the read set of a prediction (R149, R156): every tap position is read. -/
def State.predReads (s : State) (q : Prediction) : List Int :=
  let p := s.positionOf q
  let g := s.filterOf q
  (axisReads g p.yi p.fy q.h).flatMap fun y =>
    (axisReads g p.xi p.fx q.w).map fun x => sampleAddr q.refBase q.refStride x y

/-! ## Blocks of samples -/

/-- The addresses of a W x H block in raster order: the write set of R149, and the read sets of R160. -/
def blockAddrs (base stride : Int) (w h : Nat) : List Int :=
  (raster w h).map fun p => sampleAddr base stride p.2 p.1

/-- The stores of a block O into a plane, in raster order. -/
def blockStores (base stride : Int) (w h : Nat) (o : Int → Int → Int) : List (Int × Int) :=
  (raster w h).map fun p => (sampleAddr base stride p.2 p.1, o p.1 p.2)

/-- The rounded average of two samples (R160): (a + b + 1) >> 1, no clip. -/
def average (a b : Int) : Int := asr (a + b + 1) 1

end Sys2Proof.Machine
end

