-- ==== Sys2Proof/Machine/MotionComp.lean ====
section
/-! DEFINITION. The motion-compensation commands (40_mc.md). Each has its checks in the order of R253, the addresses it reads
and writes, its effect, and its meaning. Every read comes before any write (R83 (a)), so an effect is a function of the memory
at its start. -/

namespace Sys2Proof.Machine

/-! ## MC_PRED_LUMA (R150) and MC_PRED_CHROMA (R155) -/

/-- The prediction that MC_PRED_LUMA (`chroma = false`) or MC_PRED_CHROMA (`chroma = true`) makes. -/
def State.predCommand (s : State) (chroma : Bool) : Prediction :=
  let o := s.predOperands
  { chroma := chroma, refBase := o.ref, refStride := o.rstr, x := o.x, y := o.y, w := o.w, h := o.h, mv := ⟨o.mvx, o.mvy⟩ }

/-- The write set of both (R149, R156). -/
def State.predWrites (s : State) : List Int :=
  let o := s.predOperands
  blockAddrs o.dst o.dstr o.w o.h

/-- The checks of R125 for both, given the configuration predicate. -/
def predFault (chroma : Bool) (configOk : State → Bool) (s : State) : Option ErrCode :=
  let o := s.predOperands
  firstFault
    [(configOk s, .config),
     (sizeOk o.w o.h, .geometry),
     (even o.ref && even o.dst, .misaligned),
     (s.allInRange (s.predReads (s.predCommand chroma)) && s.allInRange s.predWrites, .memRange)]

/-- The effect of both: the block O is written to DST. -/
def predEffect (chroma : Bool) (s : State) : State :=
  let o := s.predOperands
  { s with mem := s.mem.writeAll (blockStores o.dst o.dstr o.w o.h (s.predict (s.predCommand chroma))) }

/-- R150: cfgLuma. -/
def faultMcPredLuma : State → Option ErrCode := predFault false State.cfgLuma

/-- R155: cfgChroma. -/
def faultMcPredChroma : State → Option ErrCode := predFault true State.cfgChroma

/-- MC_PRED_LUMA (R150). -/
def execMcPredLuma (s : State) : Host.Outcome State Fault Refusal :=
  runCommand faultMcPredLuma (predEffect false) s

/-- MC_PRED_CHROMA (R155). -/
def execMcPredChroma (s : State) : Host.Outcome State Fault Refusal :=
  runCommand faultMcPredChroma (predEffect true) s

/-! ## MC_BI_AVG (R160) -/

/-- The read set: both source blocks. -/
def State.biReads (s : State) : List Int :=
  let o := s.biOperands
  blockAddrs o.src0 o.s0str o.w o.h ++ blockAddrs o.src1 o.s1str o.w o.h

/-- The write set. -/
def State.biWrites (s : State) : List Int :=
  let o := s.biOperands
  blockAddrs o.dst o.dstr o.w o.h

/-- The checks of R125: no configuration is read. -/
def faultMcBiAvg (s : State) : Option ErrCode :=
  let o := s.biOperands
  firstFault
    [(sizeOk o.w o.h, .geometry),
     (even o.src0 && even o.src1 && even o.dst, .misaligned),
     (s.allInRange s.biReads && s.allInRange s.biWrites, .memRange)]

/-- The averaged sample at row r, column c. -/
def State.biSample (s : State) (r c : Int) : Int :=
  let o := s.biOperands
  average (s.mem.read16 (sampleAddr o.src0 o.s0str c r)) (s.mem.read16 (sampleAddr o.src1 o.s1str c r))

/-- The effect: the averaged block is written to DST. -/
def effectMcBiAvg (s : State) : State :=
  let o := s.biOperands
  { s with mem := s.mem.writeAll (blockStores o.dst o.dstr o.w o.h s.biSample) }

/-- MC_BI_AVG (R160). -/
def execMcBiAvg (s : State) : Host.Outcome State Fault Refusal := runCommand faultMcBiAvg effectMcBiAvg s

/-! ## MC_MV_CLIP (R165) -/

/-- One component clipped (R165): `pos` and `size` are the block's, `pic` the picture's dimension on the same axis. -/
def clipComponent (maxCu : Nat) (pic : Nat) (pos : Int) (size : Nat) (mv : Int) : Int :=
  clip3 (4 * (3 - (maxCu : Int) - pos)) (4 * ((pic : Int) + maxCu - 4 - size - pos)) mv

/-- `mvclip` (R165). -/
def State.mvClip (s : State) (mv : Mv) : Mv :=
  let b := s.blockOperands
  { x := clipComponent s.maxCu s.picW b.x b.w mv.x, y := clipComponent s.maxCu s.picH b.y b.h mv.y }

/-- The geometry of MC_MV_CLIP (R125): a legal size, and the block inside the picture. -/
def State.blockInPicture (s : State) : Bool :=
  let b := s.blockOperands
  sizeOk b.w b.h && 0 ≤ b.x && 0 ≤ b.y && b.x + b.w ≤ s.picW && b.y + b.h ≤ s.picH

/-- The checks of R125. -/
def faultMcMvClip (s : State) : Option ErrCode :=
  firstFault [(s.cfgPic, .config), (s.blockInPicture, .geometry)]

/-- The vector MC_MV_CLIP clips (R114). -/
def State.clippedOperand (s : State) : Mv := s.mvClip ⟨s.s32 6, s.s32 7⟩

/-- The effect: RESULT0 and RESULT1 take the clipped components. -/
def effectMcMvClip (s : State) : State := (s.setResult 0 s.clippedOperand.x).setResult 1 s.clippedOperand.y

/-- MC_MV_CLIP (R165). -/
def execMcMvClip (s : State) : Host.Outcome State Fault Refusal := runCommand faultMcMvClip effectMcMvClip s

/-! ## MC_BLOCK (R170) -/

/-- Which lists a block is predicted from (R170). -/
inductive PredMode where
  | l0
  | l1
  | bi
  deriving DecidableEq, Repr

/-- The clipped vector of list 0 (R170). -/
def State.mv0 (s : State) : Mv := s.mvClip s.list0.mv

/-- The clipped vector of list 1 (R170). -/
def State.mv1 (s : State) : Mv := s.mvClip s.list1.mv

/-- The identical-motion shortcut (R171): equal POCs and equal clipped vectors. -/
def State.sameMotion (s : State) : Bool := s.list0.poc == s.list1.poc && s.mv0 == s.mv1

/-- The mode (R170), for a block that uses at least one list. -/
def State.predMode (s : State) : PredMode :=
  if s.use0 && !s.use1 then .l0
  else if s.use1 && !s.use0 then .l1
  else if s.sameMotion then .l0
  else .bi

/-- The lists a mode reads. -/
def PredMode.lists : PredMode → List Bool
  | .l0 => [false]
  | .l1 => [true]
  | .bi => [false, true]

/-- List 1 (`true`) or list 0 (`false`) of a block. -/
def State.refList (s : State) (one : Bool) : RefList := if one then s.list1 else s.list0

/-- The clipped vector of a list. -/
def State.clippedMv (s : State) (one : Bool) : Mv := if one then s.mv1 else s.mv0

/-- A plane of the block (R170): luma, Cb or Cr. -/
inductive BlockPlane where
  | luma
  | chroma (pl : ChromaPlane)
  deriving DecidableEq, Repr

/-- The planes of the block (R170): luma alone under 4:0:0. -/
def State.blockPlanes (s : State) : List BlockPlane :=
  if s.hasChroma then [.luma, .chroma .cb, .chroma .cr] else [.luma]

/-- The base of a plane in a reference list (R115). -/
def RefList.base (l : RefList) : BlockPlane → Int
  | .luma => l.lumaBase
  | .chroma .cb => l.cbBase
  | .chroma .cr => l.crBase

/-- The base of a plane's output block (R115): DST, DCB, DCR. -/
def State.dstBase (s : State) : BlockPlane → Int
  | .luma => s.u32 2
  | .chroma .cb => s.u32 23
  | .chroma .cr => s.u32 24

/-- The stride of a plane's output block (R115): DSTR, DCSTR. -/
def State.dstStride (s : State) : BlockPlane → Int
  | .luma => s.u32 3
  | .chroma _ => s.u32 25

/-- The width of the block in a plane (R170). -/
def State.planeW (s : State) : BlockPlane → Nat
  | .luma => s.blockOperands.w
  | .chroma _ => s.blockOperands.w / 2 ^ s.ws

/-- The height of the block in a plane (R170). -/
def State.planeH (s : State) : BlockPlane → Nat
  | .luma => s.blockOperands.h
  | .chroma _ => s.blockOperands.h / 2 ^ s.hs

/-- The prediction of one plane from one list (R170): `pred_L(p)`. -/
def State.blockPrediction (s : State) (one : Bool) (p : BlockPlane) : Prediction :=
  let b := s.blockOperands
  match p with
  | .luma =>
    { chroma := false, refBase := (s.refList one).base p, refStride := s.u32 1, x := b.x, y := b.y, w := s.planeW p,
      h := s.planeH p, mv := s.clippedMv one }
  | .chroma _ =>
    { chroma := true, refBase := (s.refList one).base p, refStride := s.u32 22, x := asr b.x s.ws, y := asr b.y s.hs,
      w := s.planeW p, h := s.planeH p, mv := s.clippedMv one }

/-- The output sample of a plane (R170): the one list's prediction, or the rounded average of both. -/
def State.blockSample (s : State) (p : BlockPlane) (r c : Int) : Int :=
  match s.predMode with
  | .l0 => s.predict (s.blockPrediction false p) r c
  | .l1 => s.predict (s.blockPrediction true p) r c
  | .bi => average (s.predict (s.blockPrediction false p) r c) (s.predict (s.blockPrediction true p) r c)

/-- The read set: the windows of the lists the mode reads (R170). -/
def State.blockReads (s : State) : List Int :=
  s.predMode.lists.flatMap fun one => s.blockPlanes.flatMap fun p => s.predReads (s.blockPrediction one p)

/-- The write set (R170): the output blocks of the planes. -/
def State.blockWrites (s : State) : List Int :=
  s.blockPlanes.flatMap fun p => blockAddrs (s.dstBase p) (s.dstStride p) (s.planeW p) (s.planeH p)

/-- The stores (R170): luma, then Cb, then Cr, each in raster order. -/
def State.blockStoreList (s : State) : List (Int × Int) :=
  s.blockPlanes.flatMap fun p =>
    blockStores (s.dstBase p) (s.dstStride p) (s.planeW p) (s.planeH p) (s.blockSample p)

/-- The chroma alignment of the block (R125): X and W multiples of 2^ws, Y and H of 2^hs, if there is chroma. -/
def State.chromaAligned (s : State) : Bool :=
  let b := s.blockOperands
  !s.hasChroma ||
    (lowBits b.x s.ws == 0 && b.w % 2 ^ s.ws == 0 && lowBits b.y s.hs == 0 && b.h % 2 ^ s.hs == 0)

/-- The bases the block uses are even (R125, R170): those of its output blocks, and those of the reference planes of exactly
the lists the mode reads (log 11). -/
def State.blockBasesEven (s : State) : Bool :=
  s.blockPlanes.all fun p =>
    even (s.dstBase p) && s.predMode.lists.all fun one => even ((s.refList one).base p)

/-- The checks of R125. -/
def faultMcBlock (s : State) : Option ErrCode :=
  firstFault
    [(s.cfgBlk, .config),
     (s.blockInPicture && s.chromaAligned, .geometry),
     (s.use0 || s.use1, .noRef),
     (s.blockBasesEven, .misaligned),
     (s.allInRange s.blockReads && s.allInRange s.blockWrites, .memRange)]

/-- The effect: every plane's output block is written. -/
def effectMcBlock (s : State) : State := { s with mem := s.mem.writeAll s.blockStoreList }

/-- MC_BLOCK (R170). -/
def execMcBlock (s : State) : Host.Outcome State Fault Refusal := runCommand faultMcBlock effectMcBlock s

end Sys2Proof.Machine
end

