-- ==== Sys2Proof/Machine/Dispatch.lean ====
section
/-! DEFINITION. One arm per command: the engine's whole transition for the command in PENDING (R50, R292). -/

namespace Sys2Proof.Machine

def exec (i : Instr) (s : State) : Host.Outcome State Fault Refusal :=
  match i with
  | .nop => Sys2Proof.Machine.execNop s
  | .mcPredLuma => Sys2Proof.Machine.execMcPredLuma s
  | .mcPredChroma => Sys2Proof.Machine.execMcPredChroma s
  | .mcBiAvg => Sys2Proof.Machine.execMcBiAvg s
  | .mcMvClip => Sys2Proof.Machine.execMcMvClip s
  | .mcBlock => Sys2Proof.Machine.execMcBlock s
  | .dfBs => Sys2Proof.Machine.execDfBs s
  | .dfEdgeLuma => Sys2Proof.Machine.execDfEdgeLuma s
  | .dfEdgeChroma => Sys2Proof.Machine.execDfEdgeChroma s
  | .dfQpcCb => Sys2Proof.Machine.execDfQpcCb s
  | .dfQpcCr => Sys2Proof.Machine.execDfQpcCr s
  | .dfPassBegin => Sys2Proof.Machine.execDfPassBegin s
  | .dfCuHor => Sys2Proof.Machine.execDfCuHor s
  | .dfCuVer => Sys2Proof.Machine.execDfCuVer s

end Sys2Proof.Machine
end

