-- ==== Sys2Proof/WellFormed.lean ====
section
/-! DEFINITION. When a CMD word is legal (R103). An `Instr` carries no operand, so every term of it is well-formed: what can
be ill-formed is the fields of a word, and there are three checks, one for each kind of illegal word the rule names. -/

namespace Sys2Proof

/-- The opcodes of R102. -/
def knownOpcodes : List (BitVec 8) :=
  [0x00, 0x01, 0x02, 0x03, 0x04, 0x05, 0x10, 0x11, 0x12, 0x13, 0x14, 0x15, 0x16]

/-- R103, first kind: the OPC field is in R102. -/
def CmdWord.opcodeKnown (c : CmdWord) : Bool := knownOpcodes.contains c.opc

/-- R103, second kind: the RSV field is zero. -/
def CmdWord.reservedZero (c : CmdWord) : Bool := c.rsv == 0

/-- R103, third kind: PLANE is 1 or 2 with OPC 0x13, and 0 with every other OPC. -/
def CmdWord.planeLegal (c : CmdWord) : Bool :=
  if c.opc == 0x13 then c.plane == 1 || c.plane == 2 else c.plane == 0

/-- A legal CMD word (R103). -/
def CmdWord.wf (c : CmdWord) : Bool := c.opcodeKnown && c.reservedZero && c.planeLegal

end Sys2Proof
end

