-- ==== Sys2Proof/Decode.lean ====
section
/-! DEFINITION. Decoding of CMD words (R100 to R104), total and rejecting by name, and after it the encoder. -/

namespace Sys2Proof

/-- Why a CMD word is illegal (R103). -/
inductive DecodeError where
  /-- RSV is not zero. -/
  | reservedBits
  /-- OPC is not in R102. -/
  | unknownOpcode
  /-- PLANE is not one that this OPC allows. -/
  | badPlane
  deriving DecidableEq, Repr

/-- The fields of a word (R100). -/
def CmdWord.ofWord (w : Word) : CmdWord :=
  { rsv := w.extractLsb' 10 22, plane := w.extractLsb' 8 2, opc := w.extractLsb' 0 8 }

/-- The word with these fields (R100). -/
def CmdWord.toWord (c : CmdWord) : Word := c.rsv ++ c.plane ++ c.opc

/-- The opcode map (R102), with the PLANE value each command has (R103, R104). -/
def opcodeMap : List (BitVec 8 × BitVec 2 × Instr) :=
  [(0x00, 0, .nop),
   (0x01, 0, .mcPredLuma),
   (0x02, 0, .mcPredChroma),
   (0x03, 0, .mcBiAvg),
   (0x04, 0, .mcMvClip),
   (0x05, 0, .mcBlock),
   (0x10, 0, .dfBs),
   (0x11, 0, .dfEdgeLuma),
   (0x12, 0, .dfEdgeChroma),
   (0x13, 1, .dfQpcCb),
   (0x13, 2, .dfQpcCr),
   (0x14, 0, .dfPassBegin),
   (0x15, 0, .dfCuHor),
   (0x16, 0, .dfCuVer)]

/-- The command of an OPC and a PLANE, by the opcode map. -/
def lookupOpcode (opc : BitVec 8) (plane : BitVec 2) : Except DecodeError Instr :=
  match opcodeMap.find? fun row => row.1 == opc && row.2.1 == plane with
  | some row => .ok row.2.2
  | none => if opcodeMap.any fun row => row.1 == opc then .error .badPlane else .error .unknownOpcode

/-- Decoding of a CMD word. Every error is the same illegal command to the block (R103, E_ILLEGAL_CMD). -/
def decode (w : Word) : Except DecodeError Instr :=
  let c := CmdWord.ofWord w
  if c.rsv = 0 then lookupOpcode c.opc c.plane else .error .reservedBits

/-- The fields of each command's one legal word (R104). -/
def Instr.fields : Instr → CmdWord
  | .nop => ⟨0, 0, 0x00⟩
  | .mcPredLuma => ⟨0, 0, 0x01⟩
  | .mcPredChroma => ⟨0, 0, 0x02⟩
  | .mcBiAvg => ⟨0, 0, 0x03⟩
  | .mcMvClip => ⟨0, 0, 0x04⟩
  | .mcBlock => ⟨0, 0, 0x05⟩
  | .dfBs => ⟨0, 0, 0x10⟩
  | .dfEdgeLuma => ⟨0, 0, 0x11⟩
  | .dfEdgeChroma => ⟨0, 0, 0x12⟩
  | .dfQpcCb => ⟨0, 1, 0x13⟩
  | .dfQpcCr => ⟨0, 2, 0x13⟩
  | .dfPassBegin => ⟨0, 0, 0x14⟩
  | .dfCuHor => ⟨0, 0, 0x15⟩
  | .dfCuVer => ⟨0, 0, 0x16⟩

/-- The CMD word of a command (R104). -/
def encode (i : Instr) : Word := i.fields.toWord

/-- The command the decoder reads from a table row's word. A CMD word is the value of one 32-bit register write, so its bit
numbering is the table's; a row wider than 32 bits is no command (R101). -/
def decodeTableWord (nbits w : Nat) : Option Instr :=
  if nbits ≤ 32 then (decode (BitVec.ofNat 32 (w % 2 ^ nbits))).toOption else none

end Sys2Proof
end

