-- ==== Sys2Proof/Machine/HostPort.lean ====
section
/-! DEFINITION. The host's side of the block: the register window (R32 to R47), data memory (R70, R84), and RESET (R280 to
R282), which needs to know what a running command reads and writes. -/

namespace Sys2Proof.Machine

/-! ## The register window -/

/-- The registers of the window (R32). -/
inductive Reg where
  | id
  | cmd
  | status
  | ctrl
  | cfg0
  | cfg1
  | cfg2
  | mapBase
  | picYBase
  | picCbBase
  | picCrBase
  | picYStride
  | picCStride
  | result (i : Fin 4)
  | arg (i : Fin 32)
  | refPoc0 (i : Fin 16)
  | refPoc1 (i : Fin 16)
  | reserved
  deriving DecidableEq, Repr

/-- The register at a byte offset that is a multiple of 4 (R32), by its word index in the window. -/
def regAtIndex (n : Nat) : Reg :=
  if n < 0x34 / 4 then
    match n with
    | 0 => .id
    | 1 => .cmd
    | 2 => .status
    | 3 => .ctrl
    | 4 => .cfg0
    | 5 => .cfg1
    | 6 => .cfg2
    | 7 => .mapBase
    | 8 => .picYBase
    | 9 => .picCbBase
    | 10 => .picCrBase
    | 11 => .picYStride
    | _ => .picCStride
  else if 0x40 / 4 ≤ n ∧ n < 0x50 / 4 then .result (Fin.ofNat 4 (n - 0x40 / 4))
  else if 0x80 / 4 ≤ n ∧ n < 0x100 / 4 then .arg (Fin.ofNat 32 (n - 0x80 / 4))
  else if 0x100 / 4 ≤ n ∧ n < 0x140 / 4 then .refPoc0 (Fin.ofNat 16 (n - 0x100 / 4))
  else if 0x140 / 4 ≤ n ∧ n < 0x180 / 4 then .refPoc1 (Fin.ofNat 16 (n - 0x140 / 4))
  else .reserved

/-- The register at a byte offset (R32). -/
def regAt (off : BitVec 12) : Reg := regAtIndex (off.toNat / 4)

/-- The writable bits of CFG0 (R37): all but 11:10 and 31:20. -/
def cfg0Mask : Word := 0x000FF3FF

/-- The writable bits of CFG2 (R39): 15:0. -/
def cfg2Mask : Word := 0x0000FFFF

/-- What a host read returns (R32 to R46). It has no side effect. -/
def State.readReg (s : State) : Reg → Word
  | .id => s.params.implId
  | .cmd => 0
  | .status => s.status.word
  | .ctrl => if s.irqEn then 1 else 0
  | .cfg0 => s.cfg0
  | .cfg1 => s.cfg1
  | .cfg2 => s.cfg2
  | .mapBase => s.mapBase
  | .picYBase => s.picYBase
  | .picCbBase => s.picCbBase
  | .picCrBase => s.picCrBase
  | .picYStride => s.picYStride
  | .picCStride => s.picCStride
  | .result i => s.results[i]
  | .arg i => s.args[i]
  | .refPoc0 i => s.refPoc0[i]
  | .refPoc1 i => s.refPoc1[i]
  | .reserved => 0

/-- A write that the block ignores (R34, R47, R259): WIGN <- 1 and nothing else. -/
def State.ignoreWrite (s : State) : State := { s with status := s.status.ignored }

/-- An accepted CMD write (R34): PENDING <- w, DONE <- 0, BUSY <- 1. -/
def State.acceptCommand (s : State) (w : Word) : State := { s with pending := w, status := s.status.accept }

/-- A write that the idle block takes (R32 to R46). Read-only registers and reserved bits ignore it, silently. -/
def State.storeReg (s : State) (r : Reg) (v : Word) : State :=
  match r with
  | .id => s
  | .cmd => if s.status.err then s.ignoreWrite else s.acceptCommand v
  | .status => s.clearStatus v
  | .ctrl => { s with irqEn := v.getLsbD 0 }
  | .cfg0 => { s with cfg0 := v &&& cfg0Mask }
  | .cfg1 => { s with cfg1 := v }
  | .cfg2 => { s with cfg2 := v &&& cfg2Mask }
  | .mapBase => { s with mapBase := v }
  | .picYBase => { s with picYBase := v }
  | .picCbBase => { s with picCbBase := v }
  | .picCrBase => { s with picCrBase := v }
  | .picYStride => { s with picYStride := v }
  | .picCStride => { s with picCStride := v }
  | .result _ => s
  | .arg i => { s with args := s.args.set i v }
  | .refPoc0 i => { s with refPoc0 := s.refPoc0.set i v }
  | .refPoc1 i => { s with refPoc1 := s.refPoc1.set i v }
  | .reserved => s

/-- STATUS and CTRL take a write also while BUSY = 1 (R35, R36), and a reserved offset ignores one silently (R46, log 7). -/
def Reg.writableWhileBusy : Reg → Bool
  | .status => true
  | .ctrl => true
  | .reserved => true
  | _ => false

/-- A host write of a register (R32, R34, R47). -/
def State.writeReg (s : State) (r : Reg) (v : Word) : State :=
  if s.status.busy && !r.writableWhileBusy then s.ignoreWrite else s.storeReg r v

/-- The shape of a host register access the block gives a meaning to (R32): 32 bits at a multiple of 4. -/
def accessOk (width : Nat) (off : BitVec 12) : Bool := width == 4 && off.toNat % 4 == 0

/-! ## What the running command reads and writes -/

/-- The first check of a command that fails (R253), if one does. -/
def commandFault : Instr → State → Option ErrCode
  | .nop, _ => none
  | .mcPredLuma, s => faultMcPredLuma s
  | .mcPredChroma, s => faultMcPredChroma s
  | .mcBiAvg, s => faultMcBiAvg s
  | .mcMvClip, s => faultMcMvClip s
  | .mcBlock, s => faultMcBlock s
  | .dfBs, s => faultDfBs s
  | .dfEdgeLuma, s => faultDfEdgeLuma s
  | .dfEdgeChroma, s => faultDfEdgeChroma s
  | .dfQpcCb, s => faultDfQpc s
  | .dfQpcCr, s => faultDfQpc s
  | .dfPassBegin, _ => none
  | .dfCuHor, s => faultDfCuHor s
  | .dfCuVer, s => faultDfCuVer s

/-- The 16-bit units a command that passes its checks writes (R71). -/
def commandWrites : Instr → State → List Int
  | .nop, _ => []
  | .mcPredLuma, s => s.predWrites
  | .mcPredChroma, s => s.predWrites
  | .mcBiAvg, s => s.biWrites
  | .mcMvClip, _ => []
  | .mcBlock, s => s.blockWrites
  | .dfBs, _ => []
  | .dfEdgeLuma, s => s.edgeLumaLines.flatMap EdgeLine.writes
  | .dfEdgeChroma, s => s.edgeChromaLines.flatMap EdgeLine.writes
  | .dfQpcCb, _ => []
  | .dfQpcCr, _ => []
  | .dfPassBegin, _ => []
  | .dfCuHor, s => (s.cuLines .hor).flatMap EdgeLine.writes
  | .dfCuVer, s => (s.cuLines .ver).flatMap EdgeLine.writes

/-- The samples a command that passes its checks reads, as 16-bit units (R71). -/
def commandReads : Instr → State → List Int
  | .nop, _ => []
  | .mcPredLuma, s => s.predReads (s.predCommand false)
  | .mcPredChroma, s => s.predReads (s.predCommand true)
  | .mcBiAvg, s => s.biReads
  | .mcMvClip, _ => []
  | .mcBlock, s => s.blockReads
  | .dfBs, _ => []
  | .dfEdgeLuma, s => s.edgeLumaLines.flatMap EdgeLine.reads
  | .dfEdgeChroma, s => s.edgeChromaLines.flatMap EdgeLine.reads
  | .dfQpcCb, _ => []
  | .dfQpcCr, _ => []
  | .dfPassBegin, _ => []
  | .dfCuHor, s => (s.cuLines .hor).flatMap EdgeLine.reads
  | .dfCuVer, s => (s.cuLines .ver).flatMap EdgeLine.reads

/-- The map records a command that passes its checks reads (R71). -/
def commandRecords : Instr → State → List Int
  | .dfBs, s => [s.u32 0, s.u32 1]
  | .dfCuHor, s => s.cuRecords .hor
  | .dfCuVer, s => s.cuRecords .ver
  | .nop, _ => []
  | .mcPredLuma, _ => []
  | .mcPredChroma, _ => []
  | .mcBiAvg, _ => []
  | .mcMvClip, _ => []
  | .mcBlock, _ => []
  | .dfEdgeLuma, _ => []
  | .dfEdgeChroma, _ => []
  | .dfQpcCb, _ => []
  | .dfQpcCr, _ => []
  | .dfPassBegin, _ => []

/-- The `n` byte addresses from each of some addresses on. -/
def bytesFrom (n : Nat) (as : List Int) : List Nat := as.flatMap fun a => (List.range n).map fun i => a.toNat + i

/-- The bytes a command writes, given the fault its checks raise: none where one fails (R252, log 3). -/
def writesUnder (fault : Option ErrCode) (i : Instr) (s : State) : List Nat :=
  match fault with
  | none => bytesFrom 2 (commandWrites i s)
  | some _ => []

/-- The bytes a command reads, given the fault its checks raise. E_TABLE_RANGE is found in the map records themselves, which
DF_BS, DF_CU_HOR and DF_CU_VER read before any sample (R83 (b), R195, R209); every other fault is found before any access
(R253). -/
def readsUnder (fault : Option ErrCode) (i : Instr) (s : State) : List Nat :=
  match fault with
  | none => bytesFrom 2 (commandReads i s) ++ bytesFrom recordBytes (commandRecords i s)
  | some .tableRange => bytesFrom recordBytes (commandRecords i s)
  | some _ => []

/-- The bytes the running command writes: its write set (R282). -/
def State.pendingWrites (s : State) : List Nat :=
  match decode s.pending with
  | .ok i => writesUnder (commandFault i s) i s
  | .error _ => []

/-- The bytes the running command reads. -/
def State.pendingReads (s : State) : List Nat :=
  match decode s.pending with
  | .ok i => readsUnder (commandFault i s) i s
  | .error _ => []

/-- A data-memory byte that the host must not touch now (R84, R288, log 8): one the running command reads or writes. -/
def State.claimed (s : State) (a : Nat) : Bool :=
  s.status.busy && (s.pendingWrites.contains a || s.pendingReads.contains a)

/-! ## The host's moves -/

/-- A host access to data memory at some byte addresses: each must exist (R70) and none may be claimed by the running command
(R84, I10). -/
def State.hostMemory (s : State) (as : List Nat) (then' : State) : Host.Outcome State Fault Refusal :=
  if !as.all (fun a => a < s.params.memBytes) then .fault .noSuchAddress
  else if as.any s.claimed then .refused .hostMemoryDuty
  else .next then'

/-- A host register write (R32). -/
def State.hostRegWrite (s : State) (width : Nat) (off : BitVec 12) (v : Word) : Host.Outcome State Fault Refusal :=
  if accessOk width off then .next (s.writeReg (regAt off) v) else .refused .hostAccessShape

/-- A host register read (R32). -/
def State.hostRegRead (s : State) (width : Nat) (off : BitVec 12) : Host.Outcome State Fault Refusal :=
  if accessOk width off then .next { s with hostReads := .reg off (s.readReg (regAt off)) :: s.hostReads }
  else .refused .hostAccessShape

/-- A host write of one byte of data memory. -/
def State.hostMemWrite (s : State) (a : Nat) (v : Byte) : Host.Outcome State Fault Refusal :=
  s.hostMemory [a] { s with mem := s.mem.write a v }

/-- A host write of a 16-bit value to data memory (`m16`, R130). -/
def State.hostMemWrite16 (s : State) (a : Nat) (v : BitVec 16) : Host.Outcome State Fault Refusal :=
  s.hostMemory [a, a + 1] { s with mem := s.mem.write16 a v.toNat }

/-- A host read of one byte of data memory. -/
def State.hostMemRead (s : State) (a : Nat) : Host.Outcome State Fault Refusal :=
  s.hostMemory [a] { s with hostReads := .mem a (s.mem.read a) :: s.hostReads }

/-! ## RESET -/

/-- The bytes of an abandoned command's write set take free values (R282, I11, log 3): `n` counts the abandoned commands. -/
def freeBytes (n : Nat) (m : Memory) (as : List Nat) : Memory :=
  as.foldl (fun m a => m.write a (Config.freeByte n a)) m

/-- RESET (R280 to R282): every piece of the block's state takes its reset value (R53). Data memory is kept, but for the write
set of a command that RESET cuts off. The parameters, the agenda and the host's own record of its reads are no state of the
block's. -/
def State.resetBlock (s : State) : State :=
  { State.resetWith s.params (if s.status.busy then freeBytes s.abandoned s.mem s.pendingWrites else s.mem) with
    abandoned := if s.status.busy then s.abandoned + 1 else s.abandoned
    agenda := s.agenda
    hostReads := s.hostReads }

end Sys2Proof.Machine
end

