-- ==== Sys2Proof/Machine/Engine.lean ====
section
/-! DEFINITION. The engine step and the moves of the agenda (R50, R292). -/

namespace Sys2Proof.Machine

/-- The engine step (R50, R292): the command in PENDING, whole; an illegal word faults E_ILLEGAL_CMD (R103). -/
def State.engineStep (s : State) : Host.Outcome State Fault Refusal :=
  match decode s.pending with
  | .ok i => exec i s
  | .error _ => .next (s.takeFault .illegalCmd)

/-- The engine's turn: it is enabled when BUSY = 1 (R292), and idle it changes nothing (R268). -/
def State.engineTurn (s : State) : Host.Outcome State Fault Refusal :=
  if s.status.busy then s.engineStep else .next s

/-- One move of the agenda. -/
def State.make (s : State) : Move → Host.Outcome State Fault Refusal
  | .regWrite width off v => s.hostRegWrite width off v
  | .regRead width off => s.hostRegRead width off
  | .memWrite a v => s.hostMemWrite a v
  | .memWrite16 a v => s.hostMemWrite16 a v
  | .memRead a => s.hostMemRead a
  | .reset => .next s.resetBlock
  | .engine => s.engineTurn

/-- The move after the one at the head of the agenda has been taken off it; with nothing on the agenda it is the engine's
turn (log 5). -/
def State.advance (s : State) : Host.Outcome State Fault Refusal :=
  match s.agenda with
  | [] => s.engineTurn
  | mv :: rest => State.make { s with agenda := rest } mv

/-- The command word `w` accepted into PENDING, and the engine's turn next (log 6). -/
def State.loadCommand (s : State) (w : Word) : State := { s.acceptCommand w with agenda := [] }

end Sys2Proof.Machine
end

