-- ==== Sys2Proof/Machine/Step.lean ====
section
/-! DEFINITION. One step of the machine (R292), and the placing of a command where the next step runs it. -/

namespace Sys2Proof.Machine

/-- One step: the next move of the agenda, or the engine's turn where it is empty (log 5). -/
def step (s : State) : Host.Outcome State Fault Refusal := s.advance

/-- The state in which the very next step runs the command word `w` (log 6): the block fetches nothing (R31), so this stands for
the host's accepted CMD write. -/
def State.withFetchWord (s : State) (nbits w : Nat) : State := s.loadCommand (BitVec.ofNat 32 (w % 2 ^ nbits))

end Sys2Proof.Machine
end

