-- ==== Sys2Proof/Safety.lean ====
section
/-! DEFINITION. What claims are stated in: the invariant of the machine's reachable states, when a command is said to run, and,
under `Spec`, the operands, checks and address sets of the commands as the spec's rules give them, written out from the ARG and
configuration registers and not from the commands' meanings. -/

namespace Sys2Proof.Machine

/-- The invariant every step keeps: what the spec says holds of every state the machine can be in. -/
structure State.Inv (s : State) : Prop where
  /-- Data memory is in its canonical form. -/
  memCanonical : s.mem.wf
  /-- Data memory lists no address that does not exist (R70). -/
  memExists : ∀ c ∈ s.mem, c.1 < s.params.memBytes
  /-- The parameters are as R10 to R12 say. -/
  paramsWf : s.params.wf = true
  /-- ERRCODE and ERROP are 0 when ERR = 0 (R35). -/
  noErrNoCode : s.status.err = false → s.status.errCode = 0 ∧ s.status.errOp = 0
  /-- A reported code is one of R250: 0x08..0xFF are never reported. -/
  errCodeKnown : s.status.err = true → 1 ≤ s.status.errCode.toNat ∧ s.status.errCode.toNat ≤ 7
  /-- While BUSY = 1 no completion is pending: an accepted CMD write cleared DONE and found ERR = 0 (R34). -/
  busyClear : s.status.busy = true → s.status.done = false ∧ s.status.err = false
  /-- The reserved bits of CFG0 read as 0 (R37, R46). -/
  cfg0Reserved : s.cfg0 &&& ~~~cfg0Mask = 0
  /-- The reserved bits of CFG2 read as 0 (R39, R46). -/
  cfg2Reserved : s.cfg2 &&& ~~~cfg2Mask = 0
  /-- CODED is in its canonical form. -/
  codedCanonical : s.coded.wf
  /-- CODED has a bit only for the min blocks of R49. -/
  codedExists : ∀ b ∈ s.coded, b.1 < s.params.maxPicH / 4 ∧ b.2 < s.params.maxPicW / 4

/-- The command `i` would run its own effect in this state: none of its checks fails (R253). -/
def State.Runs (s : State) (i : Instr) : Prop := commandFault i s = none

/-- What a fixed order of checks decides (R253): the first check that does not hold gives its code, and none is given where all
hold. -/
def Decides : List (Prop × ErrCode) → Option ErrCode → Prop
  | [], r => r = none
  | (p, e) :: rest, r => (p → Decides rest r) ∧ (¬p → r = some e)

/-- The block is halted by a fault (R256). -/
def State.Halted (s : State) : Prop := s.status.err = true ∧ s.status.busy = false

/-! ## The commands' operands, checks and address sets, from the rules -/

namespace Spec

/-- A legal bit depth (R55, okBD). -/
def Depth (b : Nat) : Prop := b = 8 ∨ b = 10 ∨ b = 11 ∨ b = 12 ∨ b = 13 ∨ b = 14

/-- A legal picture (R55, cfgPic). -/
def Pic (s : State) : Prop :=
  4 ≤ s.picW ∧ 4 ≤ s.picH ∧ s.picW % 4 = 0 ∧ s.picH % 4 = 0 ∧ 2 ≤ s.log2Ctu ∧ s.log2Ctu ≤ 7 ∧ s.log2MinCu = 2

/-- A legal block size W x H (R125). -/
def Size (s : State) : Prop := 1 ≤ s.count 8 ∧ s.count 8 ≤ 128 ∧ 1 ≤ s.count 9 ∧ s.count 9 ≤ 128

/-- The block at (X, Y) lies inside the picture (R125). -/
def Inside (s : State) : Prop :=
  0 ≤ s.s32 4 ∧ 0 ≤ s.s32 5 ∧ s.s32 4 + s.count 8 ≤ s.picW ∧ s.s32 5 + s.count 9 ≤ s.picH

/-- An access of `n` bytes at `a` is in range (R75). -/
def InMemory (s : State) (n : Nat) (a : Int) : Prop := 0 ≤ a ∧ a + n ≤ s.params.memBytes

/-- ws (R19), where the picture has chroma. -/
def shiftX (s : State) : Nat := if s.chromaFmt = 1 then 1 else if s.chromaFmt = 2 then 1 else 0

/-- hs (R19), where the picture has chroma. -/
def shiftY (s : State) : Nat := if s.chromaFmt = 1 then 1 else 0

/-- The block is aligned to the chroma grid (R125). -/
def ChromaAligned (s : State) : Prop :=
  s.chromaFmt ≠ 0 →
    s.s32 4 % 2 ^ shiftX s = 0 ∧ s.count 8 % 2 ^ shiftX s = 0 ∧ s.s32 5 % 2 ^ shiftY s = 0 ∧ s.count 9 % 2 ^ shiftY s = 0

/-- A motion vector clipped for the block (R165). -/
def mvClip (s : State) (mv : Mv) : Mv :=
  let cu : Int := 2 ^ s.log2Ctu
  { x := clip3 (4 * (3 - cu - s.s32 4)) (4 * (s.picW + cu - 4 - s.count 8 - s.s32 4)) mv.x
    y := clip3 (4 * (3 - cu - s.s32 5)) (4 * (s.picH + cu - 4 - s.count 9 - s.s32 5)) mv.y }

/-- One plane of MC_BLOCK (R170): its output block, and its prediction from list 0 and from list 1. -/
structure Plane where
  dst : Int
  dstStride : Int
  w : Nat
  h : Nat
  pred0 : Prediction
  pred1 : Prediction
  deriving DecidableEq, Repr

/-- The address of sample (c, r) of the output block. -/
def Plane.addr (p : Plane) (r c : Nat) : Int := p.dst + 2 * ((r : Int) * p.dstStride + c)

/-- The luma plane of MC_BLOCK (R115, R170): DST, DSTR, W x H, and L0Y and L1Y with RSTR, at (X, Y), each with its list's clipped
vector. -/
def lumaPlane (s : State) : Plane :=
  let pred := fun (base : Int) (mv : Mv) =>
    ({ chroma := false, refBase := base, refStride := s.u32 1, x := s.s32 4, y := s.s32 5, w := s.count 8, h := s.count 9,
       mv := mvClip s mv } : Prediction)
  { dst := s.u32 2, dstStride := s.u32 3, w := s.count 8, h := s.count 9, pred0 := pred (s.u32 0) ⟨s.s32 6, s.s32 7⟩,
    pred1 := pred (s.u32 19) ⟨s.s32 13, s.s32 14⟩ }

/-- A chroma plane of MC_BLOCK (R115, R170), given its bases: DCSTR, (W >> ws) x (H >> hs), and the lists' planes with RCSTR, at
(X >> ws, Y >> hs), each with its list's clipped vector. -/
def chromaPlane (s : State) (dst base0 base1 : Int) : Plane :=
  let w := s.count 8 / 2 ^ shiftX s
  let h := s.count 9 / 2 ^ shiftY s
  let pred := fun (base : Int) (mv : Mv) =>
    ({ chroma := true, refBase := base, refStride := s.u32 22, x := s.s32 4 / 2 ^ shiftX s, y := s.s32 5 / 2 ^ shiftY s,
       w := w, h := h, mv := mvClip s mv } : Prediction)
  { dst := dst, dstStride := s.u32 25, w := w, h := h, pred0 := pred base0 ⟨s.s32 6, s.s32 7⟩,
    pred1 := pred base1 ⟨s.s32 13, s.s32 14⟩ }

/-- The planes of MC_BLOCK in the order they are written (R115, R170): luma, and with chroma Cb (DCB, L0CB, L1CB) and Cr (DCR, L0CR,
L1CR). -/
def planes (s : State) : List Plane :=
  lumaPlane s ::
    if s.chromaFmt = 0 then []
    else [chromaPlane s (s.u32 23) (s.u32 17) (s.u32 20), chromaPlane s (s.u32 24) (s.u32 18) (s.u32 21)]

/-- The bases MC_BLOCK uses are even (R125, R170): those of its outputs, and those of the planes of the lists its mode reads. -/
def BlockBasesEven (s : State) : Prop :=
  ∀ p ∈ planes s, p.dst % 2 = 0 ∧ (s.predMode ≠ .l1 → p.pred0.refBase % 2 = 0) ∧
    (s.predMode ≠ .l0 → p.pred1.refBase % 2 = 0)

/-- `a` is the address of a sample a prediction reads (R149, R156), at the position of R141 or R142: the block, widened on an
axis whose phase is not zero by the taps before and after it. -/
def Window (s : State) (q : Prediction) (a : Int) : Prop :=
  let x32 := 32 * q.x + q.mv.x * 2 ^ (3 - shiftX s)
  let y32 := 32 * q.y + q.mv.y * 2 ^ (3 - shiftY s)
  let xi := if q.chroma then x32 / 32 else q.x + q.mv.x / 4
  let yi := if q.chroma then y32 / 32 else q.y + q.mv.y / 4
  let fx := if q.chroma then x32 % 32 else 4 * (q.mv.x % 4)
  let fy := if q.chroma then y32 % 32 else 4 * (q.mv.y % 4)
  let lead : Int := if q.chroma then 1 else 3
  let trail : Int := if q.chroma then 2 else 4
  ∃ x y : Int,
    (if fx = 0 then xi ≤ x ∧ x ≤ xi + q.w - 1 else xi - lead ≤ x ∧ x ≤ xi + q.w - 1 + trail) ∧
    (if fy = 0 then yi ≤ y ∧ y ≤ yi + q.h - 1 else yi - lead ≤ y ∧ y ≤ yi + q.h - 1 + trail) ∧
    a = q.refBase + 2 * (y * q.refStride + x)

/-- The prediction of MC_PRED_LUMA and MC_PRED_CHROMA (R111, R112): REF, RSTR, X, Y, W, H, MVX, MVY. -/
def predCommand (s : State) (chroma : Bool) : Prediction :=
  { chroma := chroma, refBase := s.u32 0, refStride := s.u32 1, x := s.s32 4, y := s.s32 5, w := s.count 8, h := s.count 9,
    mv := ⟨s.s32 6, s.s32 7⟩ }

/-- `a` is the address of a sample of the W x H block at a base (R149). -/
def Block (s : State) (base stride a : Int) : Prop :=
  ∃ r c : Nat, r < s.count 9 ∧ c < s.count 8 ∧ a = base + 2 * ((r : Int) * stride + c)

/-- `a` is the address of a sample at one of some distances across the lines of DF_EDGE_LUMA and DF_EDGE_CHROMA (R117, R200): -2,
-1, 0 and 1 are A, B, C and D. -/
def EdgeSample (s : State) (across : List Int) (a : Int) : Prop :=
  ∃ k < s.count 3, ∃ t ∈ across, a = s.u32 0 + 2 * ((k : Int) * s.s32 2 + t * s.s32 1)

/-- `a` is the address of a sample at one of some distances across the edge of DF_CU_HOR and DF_CU_VER (R210, R211), the edge being
filtered: luma at `luma`, Cb and Cr at `chroma`. -/
def CuSample (s : State) (p : Pass) (luma chroma : List Int) (a : Int) : Prop :=
  let at' := fun (base stride : Word) (along across : Int) =>
    match p with
    | .hor => (base.toNat : Int) + 2 * (across * stride.toNat + along)
    | .ver => (base.toNat : Int) + 2 * (along * stride.toNat + across)
  let along := match p with
    | .hor => s.s32 4
    | .ver => s.s32 5
  let across := match p with
    | .hor => s.s32 5
    | .ver => s.s32 4
  let segments := match p with
    | .hor => s.count 8 / 4
    | .ver => s.count 9 / 4
  let alongShift := match p with
    | .hor => shiftX s
    | .ver => shiftY s
  let acrossShift := match p with
    | .hor => shiftY s
    | .ver => shiftX s
  s.edgeFiltered p = true ∧ ∃ k < segments,
    (∃ l < 4, ∃ t ∈ luma, a = at' s.picYBase s.picYStride (along + 4 * (k : Nat) + (l : Nat)) (across + t)) ∨
    s.chromaFmt ≠ 0 ∧ ∃ base, (base = s.picCbBase ∨ base = s.picCrBase) ∧ ∃ l < 4 / 2 ^ alongShift, ∃ t ∈ chroma,
      a = at' base s.picCStride (along / 2 ^ alongShift + ((4 / 2 ^ alongShift : Nat) : Int) * (k : Nat) + (l : Nat))
        (across / 2 ^ acrossShift + t)

/-- `a` is the address of a sample the command reads (R71). -/
def Reads : Instr → State → Int → Prop
  | .nop, _, _ => False
  | .mcPredLuma, s, a => Window s (predCommand s false) a
  | .mcPredChroma, s, a => Window s (predCommand s true) a
  | .mcBiAvg, s, a => Block s (s.u32 0) (s.u32 1) a ∨ Block s (s.u32 15) (s.u32 16) a
  | .mcMvClip, _, _ => False
  | .mcBlock, s, a => ∃ p ∈ planes s, s.predMode ≠ .l1 ∧ Window s p.pred0 a ∨ s.predMode ≠ .l0 ∧ Window s p.pred1 a
  | .dfBs, _, _ => False
  | .dfEdgeLuma, s, a => EdgeSample s [-2, -1, 0, 1] a
  | .dfEdgeChroma, s, a => EdgeSample s [-2, -1, 0, 1] a
  | .dfQpcCb, _, _ => False
  | .dfQpcCr, _, _ => False
  | .dfPassBegin, _, _ => False
  | .dfCuHor, s, a => CuSample s .hor [-2, -1, 0, 1] [-2, -1, 0, 1] a
  | .dfCuVer, s, a => CuSample s .ver [-2, -1, 0, 1] [-2, -1, 0, 1] a

/-- `a` is the address of a sample the command writes (R71). -/
def Writes : Instr → State → Int → Prop
  | .nop, _, _ => False
  | .mcPredLuma, s, a => Block s (s.u32 2) (s.u32 3) a
  | .mcPredChroma, s, a => Block s (s.u32 2) (s.u32 3) a
  | .mcBiAvg, s, a => Block s (s.u32 2) (s.u32 3) a
  | .mcMvClip, _, _ => False
  | .mcBlock, s, a => ∃ p ∈ planes s, ∃ r c : Nat, r < p.h ∧ c < p.w ∧ a = p.addr r c
  | .dfBs, _, _ => False
  | .dfEdgeLuma, s, a => EdgeSample s [-2, -1, 0, 1] a
  | .dfEdgeChroma, s, a => EdgeSample s [-1, 0] a
  | .dfQpcCb, _, _ => False
  | .dfQpcCr, _, _ => False
  | .dfPassBegin, _, _ => False
  | .dfCuHor, s, a => CuSample s .hor [-2, -1, 0, 1] [-1, 0] a
  | .dfCuVer, s, a => CuSample s .ver [-2, -1, 0, 1] [-1, 0] a

/-- Every sample the command reads or writes is in range (R75). -/
def AllInMemory (i : Instr) (s : State) : Prop := ∀ a, Reads i s a ∨ Writes i s a → InMemory s 2 a

/-- `MAPREC(i, j)` (R78). -/
def mapRec (s : State) (i j : Int) : Int := (s.mapBase.toNat : Int) + 16 * (j * (s.picW / 4 : Nat) + i)

/-- `r` is the address of a map record the command reads (R195, R210, R211). -/
def Records : Instr → State → Int → Prop
  | .dfBs, s, r => r = s.u32 0 ∨ r = s.u32 1
  | .dfCuHor, s, r => s.edgeFiltered .hor = true ∧ ∃ k < s.count 8 / 4,
      r = mapRec s (s.s32 4 / 4 + (k : Nat)) (s.s32 5 / 4 - 1) ∨ r = mapRec s (s.s32 4 / 4 + (k : Nat)) (s.s32 5 / 4)
  | .dfCuVer, s, r => s.edgeFiltered .ver = true ∧ ∃ k < s.count 9 / 4,
      r = mapRec s (s.s32 4 / 4 - 1) (s.s32 5 / 4 + (k : Nat)) ∨ r = mapRec s (s.s32 4 / 4) (s.s32 5 / 4 + (k : Nat))
  | .nop, _, _ => False
  | .mcPredLuma, _, _ => False
  | .mcPredChroma, _, _ => False
  | .mcBiAvg, _, _ => False
  | .mcMvClip, _, _ => False
  | .mcBlock, _, _ => False
  | .dfEdgeLuma, _, _ => False
  | .dfEdgeChroma, _, _ => False
  | .dfQpcCb, _, _ => False
  | .dfQpcCr, _, _ => False
  | .dfPassBegin, _, _ => False

end Spec

end Sys2Proof.Machine
end

