-- ==== Sys2Proof/Certificates/Slice0/Obligations.lean ====
section
/-! DEFINITION. The statements about the model, for the provers. Each docstring names the rule of spec/ it formalises. -/

open Sys2Proof Sys2Proof.Machine

/-! ## Encoding -/

/-- R104: each command has exactly one legal word, written out here, and the decoder reads a word as a command exactly where
the word is that command's. -/
def Obligations.DecodeAcceptsExactlyTheEncodings : Prop :=
  (∀ (w : Word) (i : Instr), decode w = .ok i ↔ w = encode i) ∧
  encode .nop = 0x00000000 ∧ encode .mcPredLuma = 0x00000001 ∧ encode .mcPredChroma = 0x00000002 ∧
  encode .mcBiAvg = 0x00000003 ∧ encode .mcMvClip = 0x00000004 ∧ encode .mcBlock = 0x00000005 ∧
  encode .dfBs = 0x00000010 ∧ encode .dfEdgeLuma = 0x00000011 ∧ encode .dfEdgeChroma = 0x00000012 ∧
  encode .dfQpcCb = 0x00000113 ∧ encode .dfQpcCr = 0x00000213 ∧ encode .dfPassBegin = 0x00000014 ∧
  encode .dfCuHor = 0x00000015 ∧ encode .dfCuVer = 0x00000016

/-- R103: a word is illegal where its OPC is unknown, its RSV is not zero, or its PLANE is not one its OPC allows; the engine
step of an illegal word is E_ILLEGAL_CMD and nothing else. -/
def Obligations.IllegalWordsFaultAndDoNothingElse : Prop :=
  (∀ w : Word, (∃ i, decode w = .ok i) ↔
    knownOpcodes.contains (w.extractLsb' 0 8) = true ∧ w.extractLsb' 10 22 = 0 ∧
      ((w.extractLsb' 0 8 = 0x13 ∧ (w.extractLsb' 8 2 = 1 ∨ w.extractLsb' 8 2 = 2)) ∨
       (w.extractLsb' 0 8 ≠ 0x13 ∧ w.extractLsb' 8 2 = 0))) ∧
  ∀ s : State, (¬∃ i, decode s.pending = .ok i) →
    s.engineStep = .next
      { s with status :=
          { busy := false, done := true, err := true, wign := s.status.wign, errCode := 0x01,
            errOp := s.pending.extractLsb' 0 8 } }

/-- Words written out from R100 to R104, one of each family, decode to the command they stand for; three illegal ones are
rejected by name. -/
def Obligations.DecodeReadsTheSpecsWords : Prop :=
  decode 0b00000000000000000000000000000000 = .ok .nop ∧
  decode 0b00000000000000000000000000000101 = .ok .mcBlock ∧
  decode 0b00000000000000000000000000010001 = .ok .dfEdgeLuma ∧
  decode 0b00000000000000000000000100010011 = .ok .dfQpcCb ∧
  decode 0b00000000000000000000001000010011 = .ok .dfQpcCr ∧
  decode 0b00000000000000000000000000010110 = .ok .dfCuVer ∧
  decode 0b00000000000000000000000100000000 = .error .badPlane ∧
  decode 0b00000000000000000000000011111111 = .error .unknownOpcode ∧
  decode 0b00000000000000000000010000010101 = .error .reservedBits

/-! ## The step -/

/-- R50, R292: with a legal word in PENDING and BUSY = 1, the engine's turn runs exactly that command, whether it stands on the
agenda or the agenda is empty. That the next move is the head of the agenda is the model's choice (log 5). -/
def Obligations.StepRunsTheDecodedCommand : Prop :=
  ∀ (s : State) (i : Instr), s.status.busy = true → decode s.pending = .ok i →
    (s.agenda = [] → step s = exec i s) ∧
    ∀ rest, s.agenda = .engine :: rest → step s = exec i { s with agenda := rest }

/-! ## The register window -/

/-- R292: the other moves of the agenda (log 5), each on the state with the move taken off it: a host register write and read,
RESET, an engine's turn that is not enabled, and an idle machine with nothing to do (R268). A host register access that is not 32
bits wide at a multiple of 4 has no meaning (R32, I9), and the machine refuses it (log 9). -/
def Obligations.StepMakesTheNextMove : Prop :=
  ∀ (s : State) (rest : List Move) (width : Nat) (off : BitVec 12) (v : Word),
    (off.toNat % 4 = 0 →
      step { s with agenda := .regWrite 4 off v :: rest } =
        .next ({ s with agenda := rest }.writeReg (regAt off) v) ∧
      step { s with agenda := .regRead 4 off :: rest } =
        .next { s with agenda := rest, hostReads := .reg off (s.readReg (regAt off)) :: s.hostReads }) ∧
    (width ≠ 4 ∨ off.toNat % 4 ≠ 0 →
      step { s with agenda := .regWrite width off v :: rest } = .refused .hostAccessShape ∧
      step { s with agenda := .regRead width off :: rest } = .refused .hostAccessShape) ∧
    step { s with agenda := .reset :: rest } = .next ({ s with agenda := rest }.resetBlock) ∧
    (s.status.busy = false →
      step { s with agenda := .engine :: rest } = .next { s with agenda := rest } ∧ (s.agenda = [] → step s = .next s))

/-- R32: the offset of every register of the window, and every other multiple of 4 is reserved. -/
def Obligations.WindowOffsets : Prop :=
  regAt 0x000 = .id ∧ regAt 0x004 = .cmd ∧ regAt 0x008 = .status ∧ regAt 0x00C = .ctrl ∧ regAt 0x010 = .cfg0 ∧
  regAt 0x014 = .cfg1 ∧ regAt 0x018 = .cfg2 ∧ regAt 0x01C = .mapBase ∧ regAt 0x020 = .picYBase ∧
  regAt 0x024 = .picCbBase ∧ regAt 0x028 = .picCrBase ∧ regAt 0x02C = .picYStride ∧ regAt 0x030 = .picCStride ∧
  (∀ i : Fin 4, regAt (BitVec.ofNat 12 (0x040 + 4 * i)) = .result i) ∧
  (∀ i : Fin 32, regAt (BitVec.ofNat 12 (0x080 + 4 * i)) = .arg i) ∧
  (∀ i : Fin 16, regAt (BitVec.ofNat 12 (0x100 + 4 * i)) = .refPoc0 i) ∧
  (∀ i : Fin 16, regAt (BitVec.ofNat 12 (0x140 + 4 * i)) = .refPoc1 i) ∧
  ∀ off : BitVec 12, off.toNat % 4 = 0 →
    (regAt off = .reserved ↔
      (0x034 ≤ off.toNat ∧ off.toNat < 0x040) ∨ (0x050 ≤ off.toNat ∧ off.toNat < 0x080) ∨ 0x180 ≤ off.toNat)

/-- R36 to R42, R44, R45: while BUSY = 0 every read-write register reads back what was written, less its reserved bits, and a
write to it changes what no other register reads; the read-only ID and RESULT registers ignore a write, and R34, R35 and R47 name
all that sets WIGN: that such a write leaves WIGN too is the model's choice (log 7). The fields of CFG0, CFG1 and CFG2 hold whatever
was written, legal or not, at the bits the rules give. -/
def Obligations.RegisterWritesReadBack : Prop :=
  ∀ (s : State) (v : Word), s.status.busy = false →
    (s.writeReg .ctrl v).readReg .ctrl = v &&& 1 ∧
    (s.writeReg .cfg0 v).readReg .cfg0 = v &&& 0x000FF3FF ∧
    (s.writeReg .cfg1 v).readReg .cfg1 = v ∧
    (s.writeReg .cfg2 v).readReg .cfg2 = v &&& 0x0000FFFF ∧
    (∀ r, r = .mapBase ∨ r = .picYBase ∨ r = .picCbBase ∨ r = .picCrBase ∨ r = .picYStride ∨ r = .picCStride ∨
        (∃ i, r = .arg i) ∨ (∃ i, r = .refPoc0 i) ∨ (∃ i, r = .refPoc1 i) →
      (s.writeReg r v).readReg r = v) ∧
    (∀ r, r = .id ∨ (∃ i, r = .result i) → s.writeReg r v = s) ∧
    (∀ r r', r ≠ .cmd → r ≠ .status → r' ≠ r → (s.writeReg r v).readReg r' = s.readReg r') ∧
    (let t := s.writeReg .cfg0 v
     t.bitDepthY = v.toNat % 16 ∧ t.bitDepthC = v.toNat / 16 % 16 ∧ t.chromaFmt = v.toNat / 256 % 4 ∧
     t.log2Ctu = v.toNat / 4096 % 16 ∧ t.log2MinCu = v.toNat / 65536 % 16) ∧
    (s.writeReg .cfg1 v).picW = v.toNat % 65536 ∧ (s.writeReg .cfg1 v).picH = v.toNat / 65536 ∧
    (s.writeReg .cfg2 v).qpOff .cb = (v.extractLsb' 0 8).toInt ∧ (s.writeReg .cfg2 v).qpOff .cr = (v.extractLsb' 8 8).toInt

/-- R46: a reserved offset reads as 0 and ignores writes, and so do the reserved bits of each listed register (they read as 0
in every state of the invariant). That a reserved offset written while BUSY = 1 leaves WIGN is the model's choice (log 7). -/
def Obligations.ReservedBitsReadZeroAndIgnoreWrites : Prop :=
  ∀ (s : State) (v : Word),
    s.readReg .reserved = 0 ∧ s.writeReg .reserved v = s ∧
    s.readReg .ctrl &&& ~~~1 = 0 ∧ s.writeReg .ctrl v = s.writeReg .ctrl (v &&& 1) ∧
    s.readReg .status &&& ~~~0x00FFFF0F = 0 ∧ s.writeReg .status v = s.writeReg .status (v &&& 0x00FFFF0F) ∧
    (s.Inv → s.readReg .cfg0 &&& ~~~0x000FF3FF = 0) ∧ s.writeReg .cfg0 v = s.writeReg .cfg0 (v &&& 0x000FF3FF) ∧
    (s.Inv → s.readReg .cfg2 &&& ~~~0x0000FFFF = 0) ∧ s.writeReg .cfg2 v = s.writeReg .cfg2 (v &&& 0x0000FFFF)

/-- R34: CMD reads as 0, and a write of it has one of three effects. -/
def Obligations.CmdWriteHasThreeEffects : Prop :=
  regAt 0x004 = .cmd ∧ ∀ (s : State) (w : Word),
    s.readReg .cmd = 0 ∧
    (s.status.busy = true → s.writeReg .cmd w = { s with status := { s.status with wign := true } }) ∧
    (s.status.busy = false → s.status.err = true →
      s.writeReg .cmd w = { s with status := { s.status with wign := true } }) ∧
    (s.status.busy = false → s.status.err = false →
      s.writeReg .cmd w = { s with pending := w, status := { s.status with done := false, busy := true } } ∧
      (s.writeReg .cmd w).engineTurn = (s.writeReg .cmd w).engineStep)

/-- R47: while BUSY = 1 a write to any register but STATUS and CTRL is ignored and sets WIGN, and nothing else changes (a reserved
offset is no register, R46). STATUS and CTRL take the write (R35, R36). -/
def Obligations.WritesWhileBusyAreIgnored : Prop :=
  ∀ (s : State) (v : Word), s.status.busy = true →
    (∀ r, r ≠ .status → r ≠ .ctrl → r ≠ .reserved →
      s.writeReg r v = { s with status := { s.status with wign := true } }) ∧
    (s.writeReg .ctrl v = { s with irqEn := v.getLsbD 0 }) ∧
    s.writeReg .status v = s.clearStatus v

/-- R35: the layout of STATUS, and what a host write of it clears: bit 1 DONE, bit 2 ERR with ERRCODE and ERROP, bit 3 WIGN; a 0
leaves a bit unchanged, BUSY is read-only, and the write is accepted while BUSY = 1 too. -/
def Obligations.StatusLayoutAndWriteOneToClear : Prop :=
  ∀ (s : State) (v : Word),
    ((s.readReg .status).getLsbD 0 = s.status.busy ∧ (s.readReg .status).getLsbD 1 = s.status.done ∧
      (s.readReg .status).getLsbD 2 = s.status.err ∧ (s.readReg .status).getLsbD 3 = s.status.wign ∧
      (s.readReg .status).extractLsb' 4 4 = 0 ∧ (s.readReg .status).extractLsb' 8 8 = s.status.errCode ∧
      (s.readReg .status).extractLsb' 16 8 = s.status.errOp ∧ (s.readReg .status).extractLsb' 24 8 = 0) ∧
    s.writeReg .status v =
      { s with status :=
          { busy := s.status.busy
            done := if v.getLsbD 1 then false else s.status.done
            err := if v.getLsbD 2 then false else s.status.err
            errCode := if v.getLsbD 2 then 0 else s.status.errCode
            errOp := if v.getLsbD 2 then 0 else s.status.errOp
            wign := if v.getLsbD 3 then false else s.status.wign } }

/-! ## Faults, interrupt, reset -/

/-- R252, R250: a command whose checks fail writes ERR, ERRCODE (the code of its fault), ERROP = PENDING[7:0], DONE and BUSY, and
nothing else: no data memory, no RESULT register, no CODED bit; and so does an illegal word, with code 0x01. -/
def Obligations.FaultWritesOnlyStatus : Prop :=
  let faulted := fun (s : State) (e : ErrCode) =>
    { s with status :=
        { busy := false, done := true, err := true, wign := s.status.wign
          errCode := match e with
            | .illegalCmd => 0x01
            | .config => 0x02
            | .geometry => 0x03
            | .noRef => 0x04
            | .misaligned => 0x05
            | .memRange => 0x06
            | .tableRange => 0x07
          errOp := s.pending.extractLsb' 0 8 } }
  (∀ (i : Instr) (s : State) (e : ErrCode), commandFault i s = some e → exec i s = .next (faulted s e)) ∧
  ∀ s : State, (¬∃ i, decode s.pending = .ok i) → s.engineStep = .next (faulted s .illegalCmd)

/-- R253 and R125 for the motion-compensation commands, with the predicates of R55 and every address of the range check (R75)
written out: the first failing check of the fixed order decides the code, and a command whose checks all hold does not fault. Which
lists' bases and windows MC_BLOCK checks is read from R170 (log 11). -/
def Obligations.McChecksDecideTheFault : Prop :=
  ∀ s : State,
    let chroma := s.chromaFmt ≠ 0
    Decides
      [(Spec.Depth s.bitDepthY, .config), (Spec.Size s, .geometry), (s.u32 0 % 2 = 0 ∧ s.u32 2 % 2 = 0, .misaligned),
       (Spec.AllInMemory .mcPredLuma s, .memRange)] (commandFault .mcPredLuma s) ∧
    Decides
      [(Spec.Depth s.bitDepthC ∧ chroma, .config), (Spec.Size s, .geometry),
       (s.u32 0 % 2 = 0 ∧ s.u32 2 % 2 = 0, .misaligned), (Spec.AllInMemory .mcPredChroma s, .memRange)]
      (commandFault .mcPredChroma s) ∧
    Decides
      [(Spec.Size s, .geometry), (s.u32 0 % 2 = 0 ∧ s.u32 15 % 2 = 0 ∧ s.u32 2 % 2 = 0, .misaligned),
       (Spec.AllInMemory .mcBiAvg s, .memRange)] (commandFault .mcBiAvg s) ∧
    Decides [(Spec.Pic s, .config), (Spec.Size s ∧ Spec.Inside s, .geometry)] (commandFault .mcMvClip s) ∧
    Decides
      [(Spec.Pic s ∧ Spec.Depth s.bitDepthY ∧ (chroma → Spec.Depth s.bitDepthC), .config),
       (Spec.Size s ∧ Spec.Inside s ∧ Spec.ChromaAligned s, .geometry),
       ((s.args[10]).getLsbD 0 = true ∨ (s.args[10]).getLsbD 1 = true, .noRef),
       (Spec.BlockBasesEven s, .misaligned), (Spec.AllInMemory .mcBlock s, .memRange)] (commandFault .mcBlock s)

/-- R253 and R125 for the deblocking commands, with the predicates of R55 and every address of the range check (R75) written out:
the first failing check of the fixed order decides the code, and a command whose checks all hold does not fault; NOP and
DF_PASS_BEGIN never do (R240, R208). What the DF_CU commands check where, and over which bytes of a record, is read from R190, R209
and R210 (logs 13 and 14). -/
def Obligations.DfChecksDecideTheFault : Prop :=
  ∀ s : State,
    let chroma := s.chromaFmt ≠ 0
    let x := s.s32 4
    let y := s.s32 5
    let w := s.count 8
    let h := s.count 9
    let recordsInMemory := fun i : Instr => ∀ r, Spec.Records i s r → Spec.InMemory s 12 r
    Decides
      [(s.u32 0 % 2 = 0 ∧ s.u32 1 % 2 = 0, .misaligned), (recordsInMemory .dfBs, .memRange),
       (s.bs (s.mem.recordAt (s.u32 0)) (s.mem.recordAt (s.u32 1)) ≠ none, .tableRange)] (commandFault .dfBs s) ∧
    Decides
      [(Spec.Depth s.bitDepthY, .config), (1 ≤ s.count 3 ∧ s.count 3 ≤ 64, .geometry), (s.u32 0 % 2 = 0, .misaligned),
       (Spec.AllInMemory .dfEdgeLuma s, .memRange)] (commandFault .dfEdgeLuma s) ∧
    Decides
      [(Spec.Depth s.bitDepthC, .config), (1 ≤ s.count 3 ∧ s.count 3 ≤ 64, .geometry), (s.u32 0 % 2 = 0, .misaligned),
       (Spec.AllInMemory .dfEdgeChroma s, .memRange)] (commandFault .dfEdgeChroma s) ∧
    Decides [(Spec.Depth s.bitDepthC, .config)] (commandFault .dfQpcCb s) ∧
    Decides [(Spec.Depth s.bitDepthC, .config)] (commandFault .dfQpcCr s) ∧
    (∀ i p, (i = .dfCuHor ∧ p = Pass.hor) ∨ (i = .dfCuVer ∧ p = Pass.ver) →
      Decides
        [(Spec.Pic s ∧ Spec.Depth s.bitDepthY ∧ (chroma → Spec.Depth s.bitDepthC) ∧ s.picW ≤ s.params.maxPicW ∧
            s.picH ≤ s.params.maxPicH, .config),
         (0 ≤ x ∧ 0 ≤ y ∧ x % 4 = 0 ∧ y % 4 = 0 ∧ w % 4 = 0 ∧ h % 4 = 0 ∧ 4 ≤ w ∧ w ≤ 2 ^ s.log2Ctu ∧ 4 ≤ h ∧
            h ≤ 2 ^ s.log2Ctu ∧ x + w ≤ s.picW ∧ y + h ≤ s.picH, .geometry),
         (s.mapBase.toNat % 2 = 0 ∧ s.picYBase.toNat % 2 = 0 ∧
            (chroma → s.picCbBase.toNat % 2 = 0 ∧ s.picCrBase.toNat % 2 = 0), .misaligned),
         (recordsInMemory i ∧ Spec.AllInMemory i s, .memRange),
         (s.edgeFiltered p = true → ∀ k < s.segments p, s.segThr p k ≠ none, .tableRange)] (commandFault i s)) ∧
    commandFault .nop s = none ∧ commandFault .dfPassBegin s = none

/-- R256, R257: while ERR = 1 every CMD write is ignored and sets WIGN. A fault leaves the block idle (R252), and halted so it stays
until the host writes STATUS with bit 2 set, or RESET comes. Such a write clears ERR, ERRCODE and ERROP and restores nothing else;
from then on the block accepts CMD writes again. That the next move is the head of the agenda is the model's choice (log 5). -/
def Obligations.FaultHaltsUntilItIsCleared : Prop :=
  (∀ (s : State) (w : Word), s.status.err = true →
    s.writeReg .cmd w = { s with status := { s.status with wign := true } }) ∧
  ∀ s : State, s.Halted →
    (∀ t, step s = .next t →
      t.Halted ∨ (∃ rest, s.agenda = .reset :: rest) ∨
        ∃ width off v rest, s.agenda = .regWrite width off v :: rest ∧ regAt off = .status ∧ v.getLsbD 2 = true) ∧
    ∀ v w : Word, v.getLsbD 2 = true →
      let t := s.writeReg .status v
      t = { s with status := { s.status with err := false, errCode := 0, errOp := 0,
                                             done := s.status.done && !v.getLsbD 1,
                                             wign := s.status.wign && !v.getLsbD 3 } } ∧
      t.writeReg .cmd w = { t with pending := w, status := { t.status with done := false, busy := true } }

/-- R260, R52: IRQ is IRQ_EN & (DONE | ERR); it is high after every completion with IRQ_EN = 1, low with IRQ_EN = 0, and low
after reset. -/
def Obligations.IrqFollowsDoneAndErr : Prop :=
  (∀ s : State, s.irq = true ↔ s.irqEn = true ∧ (s.status.done = true ∨ s.status.err = true)) ∧
  (∀ (i : Instr) (s t : State), exec i s = .next t → t.irq = s.irqEn) ∧
  (∀ s : State, (s.writeReg .ctrl 0).irq = false) ∧
  ∀ s : State, s.resetBlock.irq = false ∧ State.reset.irq = false

/-- R53, R281: the reset value of every piece of state: every register the window can read is 0 but for ID, CODED is clear,
the engine is IDLE with PENDING = 0. Data memory has no reset value: at power-up every byte of it is a free value (log 4). -/
def Obligations.ResetValues : Prop :=
  (∀ r, r ≠ .id → State.reset.readReg r = 0) ∧ State.reset.readReg .id = State.reset.params.implId ∧
  (∀ j i, State.reset.coded.get j i = false) ∧ State.reset.status.busy = false ∧ State.reset.pending = 0 ∧
  ∀ a < State.reset.params.memBytes, State.reset.mem.read a = Config.powerUp a

/-- R280 to R282: RESET puts every piece of the block's state into its reset value in one step. Data memory is not reset, but
for the write set of a command that RESET cuts off (HostMemoryAccess says which bytes those are), of which nothing is said here: its
bytes are free values (log 3). -/
def Obligations.ResetInOneStep : Prop :=
  ∀ s : State,
    (∀ r, r ≠ .id → s.resetBlock.readReg r = 0) ∧ s.resetBlock.readReg .id = s.readReg .id ∧
    (∀ j i, s.resetBlock.coded.get j i = false) ∧ s.resetBlock.status.busy = false ∧ s.resetBlock.status.done = false ∧
    s.resetBlock.pending = 0 ∧ s.resetBlock.irq = false ∧ s.resetBlock.params = s.params ∧
    (s.status.busy = false → s.resetBlock.mem = s.mem) ∧
    (s.status.busy = true → ∀ a, a ∉ s.pendingWrites → s.resetBlock.mem.read a = s.mem.read a)

/-! ## What commands write, and what they leave -/

/-- R292, R50, R44, R47: every command, from every state, ends in one transition with BUSY = 0 and DONE = 1, and leaves WIGN; a
command whose checks hold leaves ERR and its codes too. No command writes an ARG, a configuration register, REFPOC, CTRL or
PENDING, nor what is not the block's. -/
def Obligations.CommandsCompleteAndLeaveTheOtherRegisters : Prop :=
  ∀ (i : Instr) (s : State), ∃ t, exec i s = .next t ∧
    t.status.busy = false ∧ t.status.done = true ∧ t.status.wign = s.status.wign ∧
    (commandFault i s = none → t.status = { s.status with busy := false, done := true }) ∧
    t.args = s.args ∧ t.cfg0 = s.cfg0 ∧ t.cfg1 = s.cfg1 ∧ t.cfg2 = s.cfg2 ∧ t.mapBase = s.mapBase ∧
    t.picYBase = s.picYBase ∧ t.picCbBase = s.picCbBase ∧ t.picCrBase = s.picCrBase ∧ t.picYStride = s.picYStride ∧
    t.picCStride = s.picCStride ∧ t.refPoc0 = s.refPoc0 ∧ t.refPoc1 = s.refPoc1 ∧ t.irqEn = s.irqEn ∧
    t.pending = s.pending ∧ t.params = s.params ∧ t.agenda = s.agenda ∧ t.hostReads = s.hostReads ∧
    t.abandoned = s.abandoned

/-- R43, R49: only MC_MV_CLIP, DF_BS and DF_QPC write RESULT registers (MC_MV_CLIP and DF_QPC only RESULT0 and RESULT1, DF_BS only
RESULT0), only DF_PASS_BEGIN, DF_CU_HOR and DF_CU_VER write the CODED bitmap, of which the last two clear no bit, and a faulted
command writes neither. -/
def Obligations.ResultsAndCodedAreWrittenBySomeCommandsOnly : Prop :=
  ∀ (i : Instr) (s t : State), exec i s = .next t →
    (i ≠ .mcMvClip → i ≠ .dfBs → i ≠ .dfQpcCb → i ≠ .dfQpcCr → t.results = s.results) ∧
    t.results[2] = s.results[2] ∧ t.results[3] = s.results[3] ∧ (i = .dfBs → t.results[1] = s.results[1]) ∧
    (i ≠ .dfPassBegin → i ≠ .dfCuHor → i ≠ .dfCuVer → t.coded = s.coded) ∧
    ((i = .dfCuHor ∨ i = .dfCuVer) → ∀ j k, s.coded.get j k = true → t.coded.get j k = true) ∧
    (commandFault i s ≠ none → t.results = s.results ∧ t.coded = s.coded)

/-- R71, R252: every byte of data memory outside a command's write set, computed from its operands, reads as before; NOP,
MC_MV_CLIP, DF_BS, DF_QPC and DF_PASS_BEGIN have none and leave data memory whole, and so does a command that faults. -/
def Obligations.CommandsWriteOnlyTheirWriteSet : Prop :=
  ∀ (i : Instr) (s t : State), exec i s = .next t →
    (∀ a : Nat, (∀ w, Spec.Writes i s w → (a : Int) ≠ w ∧ (a : Int) ≠ w + 1) → t.mem.read a = s.mem.read a) ∧
    (commandFault i s ≠ none → t.mem = s.mem) ∧
    (i = .nop ∨ i = .mcMvClip ∨ i = .dfBs ∨ i = .dfQpcCb ∨ i = .dfQpcCr ∨ i = .dfPassBegin → t.mem = s.mem)

/-- R105 with R110 to R121: a `u32` is the unsigned and an `s32` the signed value of the ARG, and an ARG that a command does not
list is not read: whatever it holds, the command does the same. Of MC_BLOCK that holds also for the chroma ARGs without chroma, for
those of a list that FLAGS does not use, and (R170) for list 1's planes in mode L0. -/
def Obligations.CommandsReadOnlyTheirArgs : Prop :=
  (∀ (s : State) (k : Fin 32),
    s.u32 k = (s.args[k]).toNat ∧ s.s32 k = (s.args[k]).toInt ∧ s.count k = (s.args[k]).toNat) ∧
  ∀ (i : Instr) (s t : State) (k : Fin 32) (v : Word),
    (match i with
      | .nop => True
      | .mcPredLuma => 10 ≤ k.val
      | .mcPredChroma => 10 ≤ k.val
      | .mcBiAvg => (4 ≤ k.val ∧ k.val ≤ 7) ∨ (10 ≤ k.val ∧ k.val ≤ 14) ∨ 17 ≤ k.val
      | .mcMvClip => k.val ≤ 3 ∨ 10 ≤ k.val
      | .mcBlock => k.val = 15 ∨ k.val = 16 ∨ 26 ≤ k.val ∨
          (s.chromaFmt = 0 ∧ (k.val = 17 ∨ k.val = 18 ∨ (20 ≤ k.val ∧ k.val ≤ 25))) ∨
          ((s.args[10]).getLsbD 0 = false ∧ k.val ∈ [0, 6, 7, 11, 17, 18]) ∨
          ((s.args[10]).getLsbD 1 = false ∧ k.val ∈ [12, 13, 14, 19, 20, 21]) ∨
          (s.predMode = .l0 ∧ k.val ∈ [19, 20, 21])
      | .dfBs => 2 ≤ k.val
      | .dfEdgeLuma => 5 ≤ k.val
      | .dfEdgeChroma => 5 ≤ k.val
      | .dfQpcCb => 1 ≤ k.val
      | .dfQpcCr => 1 ≤ k.val
      | .dfPassBegin => True
      | .dfCuHor => k.val ≤ 3 ∨ k.val = 6 ∨ k.val = 7 ∨ 10 ≤ k.val
      | .dfCuVer => k.val ≤ 3 ∨ k.val = 6 ∨ k.val = 7 ∨ 10 ≤ k.val) →
    exec i s = .next t →
    exec i { s with args := s.args.set k v } = .next { t with args := s.args.set k v }

/-- R289, R51: the motion-compensation commands do not depend on the deblocking engine's CODED bitmap, nor change it. -/
def Obligations.McIsIndependentOfCoded : Prop :=
  ∀ (i : Instr) (s t : State) (c : Coded),
    i = .mcPredLuma ∨ i = .mcPredChroma ∨ i = .mcBiAvg ∨ i = .mcMvClip ∨ i = .mcBlock →
    exec i s = .next t → exec i { s with coded := c } = .next { t with coded := c }

/-- The invariant holds at reset. -/
def Obligations.ResetSatisfiesTheInvariant : Prop := State.reset.Inv

/-- Every step keeps the invariant, from every state that has it: data memory canonical and inside MEM_BYTES (R70), the codes
0 without ERR (R35), reserved bits 0 (R46), CODED canonical and inside its bounds (R49), nothing complete while BUSY (R34). And no
step changes the parameters, so that the ID register reads the same ever after (R33). -/
def Obligations.StepKeepsTheInvariant : Prop :=
  ∀ s t : State, s.Inv → step s = .next t → t.Inv ∧ t.params = s.params ∧ t.readReg .id = s.readReg .id

/-! ## Control commands -/

/-- R240: NOP, from every state, has no effect beyond the completion bits. -/
def Obligations.NopOnlyCompletes : Prop :=
  ∀ s : State, exec .nop s = .next { s with status := { s.status with busy := false, done := true } }

/-- R208: DF_PASS_BEGIN, from every state, clears every CODED bit and nothing else, so that no later CU, wherever its operands put
it, sees a coded neighbour. -/
def Obligations.PassBeginClearsEveryCodedBit : Prop :=
  encode .dfPassBegin = 0x00000014 ∧ ∀ s : State, ∃ t, exec .dfPassBegin s = .next t ∧ (∀ j i, t.coded.get j i = false) ∧
    t = { s with coded := t.coded, status := { s.status with busy := false, done := true } } ∧
    ∀ (as : Vector Word 32) (p : Pass), { t with args := as }.edgeFiltered p = false

/-! ## Motion compensation -/

/-- R141, R142, R19: for every luma position and motion vector, xi = X + floor(MVX / 4) and fx = 4 * (MVX mod 4), so the phase is 0,
4, 8 or 12; the chroma position is in 1/32 chroma samples, its phase below 32 and a multiple of 4 (of 8 on an axis that is not
subsampled). A prediction takes its position from its own plane's split, in chroma with the shifts of CHROMA_FMT. -/
def Obligations.PositionSplits : Prop :=
  (∀ x mv : Int, (lumaSplit x mv).1 = x + Int.floor ((mv : ℚ) / 4) ∧ ((lumaSplit x mv).2 : Int) = 4 * (mv % 4) ∧
    ((lumaSplit x mv).2 = 0 ∨ (lumaSplit x mv).2 = 4 ∨ (lumaSplit x mv).2 = 8 ∨ (lumaSplit x mv).2 = 12)) ∧
  (∀ (x mv : Int) (shift : Nat), shift ≤ 1 →
    32 * (chromaSplit shift x mv).1 + ((chromaSplit shift x mv).2 : Int) = 32 * x + mv * 2 ^ (3 - shift) ∧
    (chromaSplit shift x mv).2 < 32 ∧ (chromaSplit shift x mv).2 % (if shift = 1 then 4 else 8) = 0) ∧
  ∀ s : State,
    (s.chromaFmt = 1 → s.ws = 1 ∧ s.hs = 1) ∧ (s.chromaFmt = 2 → s.ws = 1 ∧ s.hs = 0) ∧
    (s.chromaFmt = 3 → s.ws = 0 ∧ s.hs = 0) ∧ (s.hasChroma = true ↔ s.chromaFmt ≠ 0) ∧ s.chromaFmt ≤ 3 ∧
    ∀ q : Prediction,
      (q.chroma = false → s.positionOf q =
        ⟨(lumaSplit q.x q.mv.x).1, (lumaSplit q.x q.mv.x).2, (lumaSplit q.y q.mv.y).1, (lumaSplit q.y q.mv.y).2⟩) ∧
      (q.chroma = true → s.positionOf q =
        ⟨(chromaSplit s.ws q.x q.mv.x).1, (chromaSplit s.ws q.x q.mv.x).2, (chromaSplit s.hs q.y q.mv.y).1,
          (chromaSplit s.hs q.y q.mv.y).2⟩)

/-- R141, R144 to R148: the luma prediction in closed form, in its four cases, for every state, prediction and sample. -/
def Obligations.LumaPredictionArithmetic : Prop :=
  ∀ (s : State) (q : Prediction) (r c : Int), q.chroma = false →
    let bd := s.bitDepthY
    let xi := q.x + q.mv.x / 4
    let yi := q.y + q.mv.y / 4
    let fx := (4 * (q.mv.x % 4)).toNat
    let fy := (4 * (q.mv.y % 4)).toNat
    let ref := fun x y : Int => s.mem.read16 (q.refBase + 2 * (y * q.refStride + x))
    let s1 := min 4 (bd - 8)
    let s2 := max 8 (20 - bd)
    let t := fun r' : Int =>
      ((∑ k ∈ Finset.range 8, s.params.luma fx k * ref (xi + c - 3 + k) (yi + r')) + 2 ^ s1 / 2) / 2 ^ s1
    s.predict q r c =
      if fx = 0 ∧ fy = 0 then ref (xi + c) (yi + r)
      else if fy = 0 then
        clipS bd (((∑ k ∈ Finset.range 8, s.params.luma fx k * ref (xi + c - 3 + k) (yi + r)) + 32) / 64)
      else if fx = 0 then
        clipS bd (((∑ k ∈ Finset.range 8, s.params.luma fy k * ref (xi + c) (yi + r - 3 + k)) + 32) / 64)
      else clipS bd (((∑ k ∈ Finset.range 8, s.params.luma fy k * t (r - 3 + k)) + 2 ^ (s2 - 1)) / 2 ^ s2)

/-- R142, R144, R151 to R154, R19: the chroma prediction in closed form, in its four cases, with the shifts of CHROMA_FMT. -/
def Obligations.ChromaPredictionArithmetic : Prop :=
  ∀ (s : State) (q : Prediction) (r c : Int), q.chroma = true →
    let bd := s.bitDepthC
    let ws := if s.chromaFmt = 1 ∨ s.chromaFmt = 2 then 1 else 0
    let hs := if s.chromaFmt = 1 then 1 else 0
    let x32 := 32 * q.x + q.mv.x * 2 ^ (3 - ws)
    let y32 := 32 * q.y + q.mv.y * 2 ^ (3 - hs)
    let xi := x32 / 32
    let yi := y32 / 32
    let fx := (x32 % 32).toNat
    let fy := (y32 % 32).toNat
    let ref := fun x y : Int => s.mem.read16 (q.refBase + 2 * (y * q.refStride + x))
    let s1 := min 4 (bd - 8)
    let s2 := max 8 (20 - bd)
    let t := fun r' : Int =>
      ((∑ k ∈ Finset.range 4, s.params.chroma fx k * ref (xi + c - 1 + k) (yi + r')) + 2 ^ s1 / 2) / 2 ^ s1
    s.predict q r c =
      if fx = 0 ∧ fy = 0 then ref (xi + c) (yi + r)
      else if fy = 0 then
        clipS bd (((∑ k ∈ Finset.range 4, s.params.chroma fx k * ref (xi + c - 1 + k) (yi + r)) + 32) / 64)
      else if fx = 0 then
        clipS bd (((∑ k ∈ Finset.range 4, s.params.chroma fy k * ref (xi + c) (yi + r - 1 + k)) + 32) / 64)
      else clipS bd (((∑ k ∈ Finset.range 4, s.params.chroma fy k * t (r - 1 + k)) + 2 ^ (s2 - 1)) / 2 ^ s2)

/-- R149, R156: the read set of a prediction (`Spec.Window`): the block at the integer position, widened on an axis with a non-zero
phase by the taps (3 before and 4 after for luma, 1 and 2 for chroma), every tap position included; and the write set of
MC_PRED_LUMA and MC_PRED_CHROMA. -/
def Obligations.PredictionReadSet : Prop :=
  (∀ (s : State) (q : Prediction) (a : Int), 1 ≤ q.w → 1 ≤ q.h → (a ∈ s.predReads q ↔ Spec.Window s q a)) ∧
  ∀ (s : State) (a : Int) (i : Instr), i = .mcPredLuma ∨ i = .mcPredChroma →
    (a ∈ commandWrites i s ↔
      ∃ r c : Nat, r < s.count 9 ∧ c < s.count 8 ∧ a = s.u32 2 + 2 * ((r : Int) * s.u32 3 + c))

/-- R173: where every sample a prediction reads (its read set, PredictionReadSet) is in range, so is every sample it predicts, and
so is an average. -/
def Obligations.PredictionStaysInRange : Prop :=
  (∀ (s : State) (q : Prediction), (∀ a ∈ s.predReads q, s.mem.read16 a ≤ 2 ^ s.depthOf q - 1) →
    ∀ r c : Nat, r < q.h → c < q.w → 0 ≤ s.predict q r c ∧ s.predict q r c ≤ 2 ^ s.depthOf q - 1) ∧
  ∀ a b m : Int, 0 ≤ a → a ≤ m → 0 ≤ b → b ≤ m → 0 ≤ average a b ∧ average a b ≤ m

/-- R150, R155 (the examples), R11: with well-formed coefficient tables a prediction whose read set (PredictionReadSet) is flat is
flat, in every case and at every legal bit depth. Which rows must sum to 64 is read from R142 and R144 (log 15). -/
def Obligations.FlatReferencePredictsFlat : Prop :=
  ∀ (s : State) (q : Prediction) (v : Int), s.params.wf = true → okBD (s.depthOf q) = true →
    0 ≤ v → v ≤ 2 ^ s.depthOf q - 1 → (∀ a ∈ s.predReads q, s.mem.read16 a = v) →
    ∀ r c : Nat, r < q.h → c < q.w → s.predict q r c = v

/-- R175: the two-pass arithmetic with a whole-sample second axis differs from the single-axis filter by at most 1, at every legal
bit depth and for every filter sum `f`; at bit depth 8 they are equal. -/
def Obligations.SeparableWithinOne : Prop :=
  ∀ (bd : Nat) (f : Int), okBD bd = true →
    let two := clipS bd (asr (64 * asr (f + firstOffset bd) (firstShift bd) + secondOffset bd) (secondShift bd))
    let one := clipS bd (asr (f + singleOffset) singleShift)
    (two - one ≤ 1 ∧ one - two ≤ 1) ∧ (bd = 8 → two = one)

/-- R160, R113: MC_BI_AVG completes where its checks hold, and every sample of DST is the rounded average, unclipped, of the samples
both sources held when it began (R83 (a)), whatever overlaps; of two stores to one address the later in raster order stays. -/
def Obligations.BiAvgStoresTheRoundedAverage : Prop :=
  ∀ s : State, s.mem.wf →
    let w := s.count 8
    let h := s.count 9
    let src0 := fun r c : Nat => s.u32 0 + 2 * ((r : Int) * s.u32 1 + c)
    let src1 := fun r c : Nat => s.u32 15 + 2 * ((r : Int) * s.u32 16 + c)
    let dst := fun r c : Nat => s.u32 2 + 2 * ((r : Int) * s.u32 3 + c)
    1 ≤ w ∧ w ≤ 128 ∧ 1 ≤ h ∧ h ≤ 128 → s.u32 0 % 2 = 0 ∧ s.u32 15 % 2 = 0 ∧ s.u32 2 % 2 = 0 →
    (∀ r c : Nat, r < h → c < w → ∀ a ∈ [src0 r c, src1 r c, dst r c], a + 2 ≤ s.params.memBytes) →
    ∃ t, exec .mcBiAvg s = .next t ∧
      t = { s with mem := t.mem, status := { s.status with busy := false, done := true } } ∧
      (∀ a : Nat, (∀ r c : Nat, r < h → c < w → (a : Int) ≠ dst r c ∧ (a : Int) ≠ dst r c + 1) →
        t.mem.read a = s.mem.read a) ∧
      ∀ r c : Nat, r < h → c < w →
        (∀ r' c' : Nat, r' < h → c' < w → r < r' ∨ (r = r' ∧ c < c') → dst r' c' ≠ dst r c) →
        t.mem.read16 (dst r c) = (s.mem.read16 (src0 r c) + s.mem.read16 (src1 r c) + 1) / 2

/-- R150, R155, R111: MC_PRED_LUMA (`chroma = false`) and MC_PRED_CHROMA (`chroma = true`, which needs CHROMA_FMT != 0) complete
where their checks hold, and every sample of DST is the prediction (whose arithmetic LumaPredictionArithmetic and
ChromaPredictionArithmetic state) of the reference as it stood when the command began, whatever overlaps (R83 (a)); of two stores
to one address the later in raster order stays. -/
def Obligations.PredCommandsStoreThePrediction : Prop :=
  ∀ (s : State) (chroma : Bool), s.mem.wf →
    let w := s.count 8
    let h := s.count 9
    let i := if chroma then Instr.mcPredChroma else .mcPredLuma
    let dst := fun r c : Nat => s.u32 2 + 2 * ((r : Int) * s.u32 3 + c)
    (if chroma then Spec.Depth s.bitDepthC ∧ s.chromaFmt ≠ 0 else Spec.Depth s.bitDepthY) →
    1 ≤ w ∧ w ≤ 128 ∧ 1 ≤ h ∧ h ≤ 128 → s.u32 0 % 2 = 0 ∧ s.u32 2 % 2 = 0 → Spec.AllInMemory i s →
    ∃ t, exec i s = .next t ∧
      t = { s with mem := t.mem, status := { s.status with busy := false, done := true } } ∧
      (∀ a : Nat, (∀ r c : Nat, r < h → c < w → (a : Int) ≠ dst r c ∧ (a : Int) ≠ dst r c + 1) →
        t.mem.read a = s.mem.read a) ∧
      ∀ r c : Nat, r < h → c < w →
        (∀ r' c' : Nat, r' < h → c' < w → r < r' ∨ (r = r' ∧ c < c') → dst r' c' ≠ dst r c) →
        t.mem.read16 (dst r c) =
          s.predict { chroma := chroma, refBase := s.u32 0, refStride := s.u32 1, x := s.s32 4, y := s.s32 5, w := w, h := h,
                      mv := ⟨s.s32 6, s.s32 7⟩ } r c

/-- R165: MC_MV_CLIP completes where its checks hold: RESULT0 and RESULT1 take the components clipped to the bounds of the rule,
and nothing else changes but the completion bits. -/
def Obligations.MvClipStoresTheClippedVector : Prop :=
  ∀ s : State, s.cfgPic = true →
    let x := s.s32 4
    let y := s.s32 5
    let w := s.count 8
    let h := s.count 9
    1 ≤ w ∧ w ≤ 128 ∧ 1 ≤ h ∧ h ≤ 128 → 0 ≤ x ∧ 0 ≤ y ∧ x + w ≤ s.picW ∧ y + h ≤ s.picH →
    let cu : Int := 2 ^ s.log2Ctu
    exec .mcMvClip s = .next
      { s with
        results := (s.results.set 0 (BitVec.ofInt 32
            (clip3 (4 * (3 - cu - x)) (4 * (s.picW + cu - 4 - w - x)) (s.s32 6)))).set 1 (BitVec.ofInt 32
            (clip3 (4 * (3 - cu - y)) (4 * (s.picH + cu - 4 - h - y)) (s.s32 7)))
        status := { s.status with busy := false, done := true } }

/-- R165 (derived there): after clipping, every luma read of the block lies in columns -MAXCU..PIC_W+MAXCU-1 and rows
-MAXCU..PIC_H+MAXCU-1, whatever the vector. -/
def Obligations.ClippedReadsStayInTheExtendedPicture : Prop :=
  ∀ (s : State) (mv : Mv), s.cfgPic = true → s.blockInPicture = true →
    let m := s.mvClip mv
    let xi := (lumaSplit (s.s32 4) m.x).1
    let yi := (lumaSplit (s.s32 5) m.y).1
    let cu : Int := 2 ^ s.log2Ctu
    xi - 3 ≥ -cu ∧ xi + s.count 8 + 3 ≤ s.picW + cu - 1 ∧ yi - 3 ≥ -cu ∧ yi + s.count 9 + 3 ≤ s.picH + cu - 1

/-- R170, R171, R115: the mode of a block that uses a list (FLAGS: bit 0 of ARG10 for list 0, bit 1 for list 1): the one list it
uses, list 0 by the identical-motion shortcut exactly where both are used with equal POCs and equal clipped vectors, else both. And
the clip is that of R165. -/
def Obligations.BlockModeAndShortcut : Prop :=
  ∀ s : State,
    let use0 := (s.args[10]).getLsbD 0
    let use1 := (s.args[10]).getLsbD 1
    let cu : Int := 2 ^ s.log2Ctu
    let clip := fun mvx mvy : Int =>
      (clip3 (4 * (3 - cu - s.s32 4)) (4 * (s.picW + cu - 4 - s.count 8 - s.s32 4)) mvx,
       clip3 (4 * (3 - cu - s.s32 5)) (4 * (s.picH + cu - 4 - s.count 9 - s.s32 5)) mvy)
    (use0 = true → use1 = false → s.predMode = .l0) ∧
    (use0 = false → use1 = true → s.predMode = .l1) ∧
    (use0 = true → use1 = true →
      (s.predMode = .l0 ↔ s.s32 11 = s.s32 12 ∧ clip (s.s32 6) (s.s32 7) = clip (s.s32 13) (s.s32 14)) ∧
      (s.predMode = .l0 ∨ s.predMode = .bi)) ∧
    ∀ mv : Mv, s.mvClip mv = ⟨(clip mv.x mv.y).1, (clip mv.x mv.y).2⟩

/-- R172 (derived there): where list 1's plane holds the samples of list 0's, at whatever base, the shortcut changes no sample of the
plane: the rounded average of both predictions is list 0's prediction, which BlockStoresEveryPlane stores. -/
def Obligations.ShortcutIsInvisible : Prop :=
  ∀ (s : State) (r c : Nat), (s.args[10]).getLsbD 0 = true → (s.args[10]).getLsbD 1 = true → s.predMode = .l0 →
    ∀ p ∈ Spec.planes s, r < p.h → c < p.w →
    (∀ a, Spec.Window s p.pred0 a → s.mem.read16 (a - p.pred0.refBase + p.pred1.refBase) = s.mem.read16 a) →
    s.predict p.pred0 r c = (s.predict p.pred0 r c + s.predict p.pred1 r c + 1) / 2

/-- R170, R115: MC_BLOCK completes where its checks hold. Every sample of the output block of every plane (`Spec.planes` gives the
bases, strides, origin, size and clipped vectors of each from the ARGs) is the prediction of the list the mode reads, or the rounded
average of both, computed from data memory as it stood when the command began (the mode is BlockModeAndShortcut's, the prediction
LumaPredictionArithmetic's and ChromaPredictionArithmetic's); of two stores to one address the later stays, in the order luma, Cb, Cr
and raster order in a plane. -/
def Obligations.BlockStoresEveryPlane : Prop :=
  ∀ s : State, s.mem.wf → Spec.Pic s → Spec.Depth s.bitDepthY → (s.chromaFmt ≠ 0 → Spec.Depth s.bitDepthC) →
    Spec.Size s → Spec.Inside s → Spec.ChromaAligned s →
    (s.args[10]).getLsbD 0 = true ∨ (s.args[10]).getLsbD 1 = true → Spec.BlockBasesEven s → Spec.AllInMemory .mcBlock s →
    let planes := Spec.planes s
    ∃ t, exec .mcBlock s = .next t ∧
      t = { s with mem := t.mem, status := { s.status with busy := false, done := true } } ∧
      (∀ a : Nat, (∀ p ∈ planes, ∀ r c : Nat, r < p.h → c < p.w → (a : Int) ≠ p.addr r c ∧ (a : Int) ≠ p.addr r c + 1) →
        t.mem.read a = s.mem.read a) ∧
      ∀ (n : Nat) (p : Spec.Plane), planes[n]? = some p → ∀ r c : Nat, r < p.h → c < p.w →
        (∀ (n' : Nat) (p' : Spec.Plane), planes[n']? = some p' → ∀ r' c' : Nat, r' < p'.h → c' < p'.w →
          n < n' ∨ (n = n' ∧ (r < r' ∨ (r = r' ∧ c < c'))) → p'.addr r' c' ≠ p.addr r c) →
        t.mem.read16 (p.addr r c) =
          match s.predMode with
          | .l0 => s.predict p.pred0 r c
          | .l1 => s.predict p.pred1 r c
          | .bi => (s.predict p.pred0 r c + s.predict p.pred1 r c + 1) / 2

/-! ## Deblocking -/

/-- R191: the picture a reference index designates: NONE for a negative index, the signed POC of the table for 0..15, and
E_TABLE_RANGE (the outer none) from 16 on. -/
def Obligations.ReferencePictureOfAnIndex : Prop :=
  ∀ (poc : Vector Word 16) (i : Int),
    (i < 0 → picOf poc i = some none) ∧
    (∀ k : Fin 16, i = k.val → picOf poc i = some (some (poc[k]).toInt)) ∧
    (16 ≤ i → picOf poc i = none)

/-- R192: the class of two records, for every state: 0 for intra, else 1 for a residual, else E_TABLE_RANGE for an index without a
picture, else 3 where one arrangement of the lists has the same pictures and every used vector within 3 quarter-pels on both
axes, else 2. And (R195, derived there) the class is symmetric: bs(P, Q) = bs(Q, P). -/
def Obligations.BoundaryStrengthClasses : Prop :=
  ∀ (s : State) (p q : Meta),
    (p.intra = true ∨ q.intra = true → s.bs p q = some 0) ∧
    (p.intra = false → q.intra = false → p.cbf = true ∨ q.cbf = true → s.bs p q = some 1) ∧
    (p.intra = false → q.intra = false → p.cbf = false → q.cbf = false →
      (s.bs p q = none ↔ 16 ≤ p.refi0 ∨ 16 ≤ p.refi1 ∨ 16 ≤ q.refi0 ∨ 16 ≤ q.refi1) ∧
      ∀ p0 p1 q0 q1, picOf s.refPoc0 p.refi0 = some p0 → picOf s.refPoc1 p.refi1 = some p1 →
        picOf s.refPoc0 q.refi0 = some q0 → picOf s.refPoc1 q.refi1 = some q1 →
        let close := fun a b : Mv => (a.x - b.x).natAbs < 4 ∧ (a.y - b.y).natAbs < 4
        (s.bs p q = some 3 ↔
          (p0 = q0 ∧ p1 = q1 ∧ (p0 = none ∨ close p.mv0 q.mv0) ∧ (p1 = none ∨ close p.mv1 q.mv1)) ∨
          (p0 = q1 ∧ p1 = q0 ∧ (p0 = none ∨ close p.mv0 q.mv1) ∧ (p1 = none ∨ close p.mv1 q.mv0))) ∧
        (s.bs p q = some 2 ∨ s.bs p q = some 3)) ∧
    s.bs p q = s.bs q p

/-- R195: DF_BS completes where its checks hold: RESULT0 takes the class of the two records in memory, and nothing else changes
but the completion bits. The result does not depend on other bytes of memory. -/
def Obligations.BsStoresTheClass : Prop :=
  ∀ (s : State) (c : Nat), s.u32 0 % 2 = 0 ∧ s.u32 1 % 2 = 0 →
    s.u32 0 + 12 ≤ s.params.memBytes ∧ s.u32 1 + 12 ≤ s.params.memBytes →
    s.bs (s.mem.recordAt (s.u32 0)) (s.mem.recordAt (s.u32 1)) = some c →
    exec .dfBs s = .next
      { s with results := s.results.set 0 (BitVec.ofNat 32 c), status := { s.status with busy := false, done := true } }

/-- R79, R72: the fields of a map record, byte by byte: the flags, the signed QP and reference indices, and the signed
little-endian vectors; bytes 12 to 15 are not read. -/
def Obligations.RecordFields : Prop :=
  ∀ (m : Memory) (r : Nat),
    let b := fun i : Nat => m.read (r + i)
    m.recordAt r =
      { intra := (b 0).getLsbD 0, cbf := (b 0).getLsbD 1, qp := (b 1).toInt, refi0 := (b 2).toInt, refi1 := (b 3).toInt,
        mv0 := ⟨(b 5 ++ b 4).toInt, (b 7 ++ b 6).toInt⟩, mv1 := ⟨(b 9 ++ b 8).toInt, (b 11 ++ b 10).toInt⟩ }

/-- R204, R205: DF_QPC completes with a legal BITDEPTH_C for every QPY: RESULT1 takes the clipped QP and RESULT0 its entry in the
plane's map, whose index is always inside the table; nothing else changes but the completion bits. That one table of 94 entries, from
q = -36 on, serves every bit depth is the model's choice (log 10). -/
def Obligations.QpcStoresClippedAndRemapped : Prop :=
  ∀ s : State, okBD s.bitDepthC = true → ∀ pl : ChromaPlane,
    let off := match pl with
      | .cb => (s.cfg2.extractLsb' 0 8).toInt
      | .cr => (s.cfg2.extractLsb' 8 8).toInt
    let map := match pl with
      | .cb => s.params.qpMapCb
      | .cr => s.params.qpMapCr
    let i := match pl with
      | .cb => Instr.dfQpcCb
      | .cr => Instr.dfQpcCr
    let q := clip3 (-6 * ((s.bitDepthC : Int) - 8)) 57 (s.s32 0 + off)
    ∃ k : Fin 94, (k.val : Int) = q + 36 ∧
      exec i s = .next
        { s with
          results := (s.results.set 1 (BitVec.ofInt 32 q)).set 0 (BitVec.ofInt 32 map[k])
          status := { s.status with busy := false, done := true } }

/-- R196, R197: the line filters in closed form, for every line, threshold and bit depth, with C's truncating division; the chroma
filter gives the luma filter's B and C. -/
def Obligations.LineFilterArithmetic : Prop :=
  ∀ (l : Line) (st : Int) (bd : Nat),
    let d := (l.a - 4 * l.b + 4 * l.c - l.d).tdiv 8
    let cl := max 0 ((d.natAbs : Int) - max 0 (2 * ((d.natAbs : Int) - st)))
    let d1 := d.sign * cl
    let d2 := max (-(cl / 2)) (min (cl / 2) ((l.a - l.d).tdiv 4))
    filterLuma l st bd = ⟨clipS bd (l.a - d2), clipS bd (l.b + d1), clipS bd (l.c - d1), clipS bd (l.d + d2)⟩ ∧
    filterChroma l st bd = ((filterLuma l st bd).b, (filterLuma l st bd).c)

/-- R198 (derived there) and R21: the shape of the clamp: cl = |d| up to the threshold, 2*st - |d| up to twice it, and 0 from there
on; and whatever they read, both line filters write samples in range. -/
def Obligations.ClampIsATentAndFiltersWriteInRange : Prop :=
  (∀ d st : Int, 0 ≤ st →
    ((d.natAbs : Int) ≤ st → edgeClamp d st = d.natAbs) ∧
    (st < d.natAbs → (d.natAbs : Int) < 2 * st → edgeClamp d st = 2 * st - d.natAbs) ∧
    (2 * st ≤ d.natAbs → edgeClamp d st = 0)) ∧
  ∀ (l : Line) (st : Int) (bd : Nat),
    let f := filterLuma l st bd
    (∀ x ∈ [f.a, f.b, f.c, f.d], 0 ≤ x ∧ x ≤ 2 ^ bd - 1) ∧
    (0 ≤ (filterChroma l st bd).1 ∧ (filterChroma l st bd).1 ≤ 2 ^ bd - 1 ∧
     0 ≤ (filterChroma l st bd).2 ∧ (filterChroma l st bd).2 ≤ 2 ^ bd - 1)

/-- R199 (derived there): mirror symmetry: with the sides swapped both filters give the same values in mirrored order. -/
def Obligations.FiltersMirror : Prop :=
  ∀ (l : Line) (st : Int) (bd : Nat),
    let m : Line := ⟨l.d, l.c, l.b, l.a⟩
    let f := filterLuma l st bd
    filterLuma m st bd = ⟨f.d, f.c, f.b, f.a⟩ ∧
    filterChroma m st bd = ((filterChroma l st bd).2, (filterChroma l st bd).1)

/-- R201, R203 (derived there): on samples in range, a zero threshold leaves every line, and a flat line is left by every
threshold. -/
def Obligations.ZeroThresholdAndFlatLinesAreUnchanged : Prop :=
  ∀ (l : Line) (st : Int) (bd : Nat),
    (∀ x ∈ [l.a, l.b, l.c, l.d], 0 ≤ x ∧ x ≤ 2 ^ bd - 1) → st = 0 ∨ (l.a = l.b ∧ l.b = l.c ∧ l.c = l.d) →
    filterLuma l st bd = l ∧ filterChroma l st bd = (l.b, l.c)

/-- R200, R202, R72: what filtering one line at any four even addresses leaves in memory: FL at all four for luma, FC at B and C for
chroma, each computed from the samples as they stood, and every other byte as before; of two stores to one address the later stays,
in the order A, B, C, D. Where the four are one address (XSTEP = 0, or a zero stride) it ends at the clipped old value. A legal bit
depth is at most 14, so a filtered sample fits its 16 bits. -/
def Obligations.LineFilteredInMemory : Prop :=
  ∀ (m : Memory) (e : EdgeLine), m.wf → e.bd ≤ 16 → (∀ a ∈ [e.aA, e.aB, e.aC, e.aD], 0 ≤ a ∧ a % 2 = 0) →
    let l : Line := ⟨m.read16 e.aA, m.read16 e.aB, m.read16 e.aC, m.read16 e.aD⟩
    let n := filterLine m e
    (e.luma = true →
      n.read16 e.aD = (filterLuma l e.st e.bd).d ∧
      (e.aC ≠ e.aD → n.read16 e.aC = (filterLuma l e.st e.bd).c) ∧
      (e.aB ≠ e.aC → e.aB ≠ e.aD → n.read16 e.aB = (filterLuma l e.st e.bd).b) ∧
      (e.aA ≠ e.aB → e.aA ≠ e.aC → e.aA ≠ e.aD → n.read16 e.aA = (filterLuma l e.st e.bd).a)) ∧
    (e.luma = false →
      n.read16 e.aC = (filterChroma l e.st e.bd).2 ∧
      (e.aB ≠ e.aC → n.read16 e.aB = (filterChroma l e.st e.bd).1)) ∧
    (e.aA = e.aB → e.aB = e.aC → e.aC = e.aD → n.read16 e.aA = clipS e.bd (m.read16 e.aA)) ∧
    ∀ a : Nat, (∀ b ∈ if e.luma then [e.aA, e.aB, e.aC, e.aD] else [e.aB, e.aC], (a : Int) ≠ b ∧ (a : Int) ≠ b + 1) →
      n.read a = m.read a

/-- R200, R202, R117, R83 (c): DF_EDGE_LUMA and DF_EDGE_CHROMA complete where their checks hold: their lines, at ADDR + 2*k*LSTEP with
steps of XSTEP, are filtered one after another with ST, each seeing the writes of the earlier ones: FL and BITDEPTH_Y for luma, FC
and BITDEPTH_C for chroma (whose CHROMA_FMT is not read). Nothing but data memory and the completion bits changes. -/
def Obligations.EdgeCommandsFilterTheirLinesInOrder : Prop :=
  ∀ (s : State) (luma : Bool),
    let bd := if luma then s.bitDepthY else s.bitDepthC
    let addr := s.u32 0
    let xstep := s.s32 1
    let lstep := s.s32 2
    let lines := s.count 3
    let st := s.count 4
    let line := fun k : Nat =>
      let c := addr + 2 * (k : Int) * lstep
      ({ luma := luma, aA := c - 4 * xstep, aB := c - 2 * xstep, aC := c, aD := c + 2 * xstep, st := st, bd := bd } : EdgeLine)
    Spec.Depth bd → 1 ≤ lines ∧ lines ≤ 64 → addr % 2 = 0 →
    (∀ k < lines, ∀ a ∈ [(line k).aA, (line k).aB, (line k).aC, (line k).aD], 0 ≤ a ∧ a + 2 ≤ s.params.memBytes) →
    ∃ (t : State) (ms : Nat → Memory), exec (if luma then .dfEdgeLuma else .dfEdgeChroma) s = .next t ∧
      t = { s with mem := ms lines, status := { s.status with busy := false, done := true } } ∧
      ms 0 = s.mem ∧ ∀ k < lines, ms (k + 1) = filterLine (ms k) (line k)

/-- R210, R211, R213: DF_CU_HOR and DF_CU_VER complete where their checks hold: the lines of the edge (CuLinesOfAnEdge) are filtered
one after another, every CODED bit of the CU's own min blocks is set and no other changes, and nothing else changes but the
completion bits. Where the edge is not filtered data memory is unchanged. -/
def Obligations.CuFiltersItsEdgeAndMarks : Prop :=
  ∀ (s : State) (p : Pass), s.cfgDF = true → s.cuGeometry = true → s.cuBasesEven = true →
    (s.edgeFiltered p = true → ∀ k < s.segments p,
      (∀ r ∈ [s.recP p k, s.recQ p k], 0 ≤ r ∧ r + 12 ≤ s.params.memBytes) ∧ s.segThr p k ≠ none ∧
      ∀ e ∈ s.segLines p k, ∀ a ∈ e.reads, 0 ≤ a ∧ a + 2 ≤ s.params.memBytes) →
    ∃ t, exec (match p with | .hor => .dfCuHor | .ver => .dfCuVer) s = .next t ∧
      t = { s with mem := t.mem, coded := t.coded, status := { s.status with busy := false, done := true } } ∧
      (s.edgeFiltered p = true →
        t.mem = ((List.range (s.segments p)).flatMap (s.segLines p)).foldl filterLine s.mem) ∧
      (s.edgeFiltered p = false → t.mem = s.mem) ∧
      ∀ j i : Nat, t.coded.get j i = true ↔
        s.coded.get j i = true ∨
          (s.s32 5 ≤ 4 * j ∧ (4 * j : Int) < s.s32 5 + s.count 9 ∧
           s.s32 4 ≤ 4 * i ∧ (4 * i : Int) < s.s32 4 + s.count 8)

/-- R207: the neighbour test, in CUs of a legal geometry: the min block above the CU's top-left one for a horizontal edge, left of
it for a vertical one, exists and is marked. -/
def Obligations.NeighbourTest : Prop :=
  ∀ s : State, s.cuGeometry = true →
    (s.edgeFiltered .hor = true ↔
      ∃ j i : Nat, (4 * (j + 1) : Int) = s.s32 5 ∧ (4 * i : Int) = s.s32 4 ∧ s.coded.get j i = true) ∧
    (s.edgeFiltered .ver = true ↔
      ∃ j i : Nat, (4 * j : Int) = s.s32 5 ∧ (4 * (i + 1) : Int) = s.s32 4 ∧ s.coded.get j i = true)

/-- R78, R206, R209: the records and thresholds of segment k: P is the min block across the edge and Q the one inside the CU; the
thresholds come from the class and Q's QP, chroma's from the remapped QP of each plane; any lookup outside its table is
E_TABLE_RANGE (none). -/
def Obligations.SegmentRecordsAndThresholds : Prop :=
  ∀ (s : State) (k : Nat), s.cuGeometry = true →
    let x := s.s32 4
    let y := s.s32 5
    let rec' := fun i j : Int => (s.mapBase.toNat : Int) + 16 * (j * (s.picW / 4 : Nat) + i)
    (s.recP .hor k = rec' (x / 4 + k) (y / 4 - 1) ∧ s.recQ .hor k = rec' (x / 4 + k) (y / 4)) ∧
    (s.recP .ver k = rec' (x / 4 - 1) (y / 4 + k) ∧ s.recQ .ver k = rec' (x / 4) (y / 4 + k)) ∧
    ∀ (p : Pass) (t : SegThr), s.segThr p k = some t ↔
      ∃ c, s.bs (s.mem.recordAt (s.recP p k)) (s.mem.recordAt (s.recQ p k)) = some c ∧
        s.thr c (s.mem.recordAt (s.recQ p k)).qp s.bitDepthY = some t.luma ∧
        (s.chromaFmt = 0 → t.cb = 0 ∧ t.cr = 0) ∧
        (s.chromaFmt ≠ 0 →
          s.thr c (s.qpc (s.mem.recordAt (s.recQ p k)).qp .cb) s.bitDepthC = some t.cb ∧
          s.thr c (s.qpc (s.mem.recordAt (s.recQ p k)).qp .cr) s.bitDepthC = some t.cr)

/-- R194: the threshold of a class and a QP: the table's entry times 2^DF_SHIFT(bd) inside DF_QP_MIN..DF_QP_MAX, E_TABLE_RANGE
outside. How the tables are held is the model's choice (log 15). -/
def Obligations.ThresholdLookup : Prop :=
  ∀ (s : State) (c : Fin 4) (q : Int) (bd : Nat), s.params.wf = true →
    (q < s.params.dfQpMin ∨ s.params.dfQpMax < q → s.thr c q bd = none) ∧
    (s.params.dfQpMin ≤ q → q ≤ s.params.dfQpMax → okBD bd = true →
      ∃ (k : Nat) (v w : Nat), q = s.params.dfQpMin + k ∧ (s.params.dfSt[c])[k]? = some v ∧
        s.params.dfShift[bd - 8]? = some w ∧ s.thr c q bd = some (v * 2 ^ w))

/-- R210 to R212, R19: the segments of an edge are its CU's width (a horizontal edge) or height (a vertical one) in steps of 4 luma
samples, filtered one after another; the lines of segment k, whether or not its thresholds exist: the 4 luma lines first, each across
the edge at the segment's samples, then, where the picture has chroma, 4 >> shift lines of Cb and then of Cr, with the thresholds of
the segment. The shifts are those of CHROMA_FMT. -/
def Obligations.CuLinesOfAnEdge : Prop :=
  ∀ (s : State) (k : Nat),
    let x := s.s32 4
    let y := s.s32 5
    let ws := if s.chromaFmt = 1 ∨ s.chromaFmt = 2 then 1 else 0
    let hs := if s.chromaFmt = 1 then 1 else 0
    let line := fun (luma : Bool) (at' : Int → Int) (st bd : Nat) =>
      ({ luma := luma, aA := at' (-2), aB := at' (-1), aC := at' 0, aD := at' 1, st := st, bd := bd } : EdgeLine)
    let lumaAt := fun x y : Int => (s.picYBase.toNat : Int) + 2 * (y * s.picYStride.toNat + x)
    let chromaAt := fun (base : Word) (x y : Int) => (base.toNat : Int) + 2 * (y * s.picCStride.toNat + x)
    (s.segments .hor = s.count 8 / 4 ∧ s.segments .ver = s.count 9 / 4 ∧
      ∀ p, s.edgeFiltered p = true → s.cuLines p = (List.range (s.segments p)).flatMap (s.segLines p)) ∧
    (∃ t : SegThr, (∀ u, s.segThr .hor k = some u → t = u) ∧
      s.segLines .hor k =
        ((List.range 4).map fun l : Nat => line true (fun d => lumaAt (x + 4 * k + l) (y + d)) t.luma s.bitDepthY) ++
        if s.chromaFmt = 0 then []
        else
          let n := 4 / 2 ^ ws
          ((List.range n).map fun l : Nat =>
            line false (fun d => chromaAt s.picCbBase (x / 2 ^ ws + n * k + l) (y / 2 ^ hs + d)) t.cb s.bitDepthC) ++
          (List.range n).map fun l : Nat =>
            line false (fun d => chromaAt s.picCrBase (x / 2 ^ ws + n * k + l) (y / 2 ^ hs + d)) t.cr s.bitDepthC) ∧
    (∃ t : SegThr, (∀ u, s.segThr .ver k = some u → t = u) ∧
      s.segLines .ver k =
        ((List.range 4).map fun l : Nat => line true (fun d => lumaAt (x + d) (y + 4 * k + l)) t.luma s.bitDepthY) ++
        if s.chromaFmt = 0 then []
        else
          let n := 4 / 2 ^ hs
          ((List.range n).map fun l : Nat =>
            line false (fun d => chromaAt s.picCbBase (x / 2 ^ ws + d) (y / 2 ^ hs + n * k + l)) t.cb s.bitDepthC) ++
          (List.range n).map fun l : Nat =>
            line false (fun d => chromaAt s.picCrBase (x / 2 ^ ws + d) (y / 2 ^ hs + n * k + l)) t.cr s.bitDepthC)

/-- R214 (derived there): a flat picture is unchanged by deblocking: where every sample of every plane of the picture is one value in
range, DF_CU_HOR and DF_CU_VER leave data memory exactly as it was, whatever the thresholds. -/
def Obligations.FlatPictureIsUnchanged : Prop :=
  ∀ (s t : State) (i : Instr) (v : Int), i = .dfCuHor ∨ i = .dfCuVer → s.mem.wf →
    0 ≤ v → v ≤ 2 ^ s.bitDepthY - 1 → (s.chromaFmt ≠ 0 → v ≤ 2 ^ s.bitDepthC - 1) →
    (∀ x y : Int, 0 ≤ x → x < s.picW → 0 ≤ y → y < s.picH →
      s.mem.read16 (sampleAddr s.picYBase.toNat s.picYStride.toNat x y) = v) →
    (s.chromaFmt ≠ 0 → ∀ pl : ChromaPlane, ∀ x y : Int, 0 ≤ x → x < s.picW / 2 ^ s.ws → 0 ≤ y → y < s.picH / 2 ^ s.hs →
      s.mem.read16 (sampleAddr (s.picChromaBase pl) s.picCStride.toNat x y) = v) →
    exec i s = .next t → t.mem = s.mem

/-! ## Data memory -/

/-- R72, R16: 16-bit accesses are little-endian: a write stores v[7:0] at a and v[15:8] at a + 1 and changes no other byte, and a
read gives the unsigned value of the two. -/
def Obligations.LittleEndianAccess : Prop :=
  ∀ (m : Memory) (a : Nat) (v : BitVec 16), m.wf →
    (m.write16 a v.toNat).read a = v.extractLsb' 0 8 ∧ (m.write16 a v.toNat).read (a + 1) = v.extractLsb' 8 8 ∧
    (∀ b, b ≠ a → b ≠ a + 1 → (m.write16 a v.toNat).read b = m.read b) ∧
    (m.write16 a v.toNat).read16 a = v.toNat ∧
    m.read16 a = (m.read a).toNat + 256 * (m.read (a + 1)).toNat ∧ (m.write16 a v.toNat).wf ∧
    m.read32 a = (m.read a).toNat + 256 * (m.read (a + 1)).toNat + 65536 * ((m.read (a + 2)).toNat + 256 * (m.read (a + 3)).toNat)

/-- R70, R84, R71, R130: the host's access to a byte of data memory, and its 16-bit move (`m16`), both of whose bytes are checked: an
address at or above MEM_BYTES does not exist; a byte the running command reads or writes must not be touched (refused, log 8, as the
fault is the model's, log 12); any other access is made, and a write changes its bytes alone, low byte first. The running command
writes its samples where its checks hold; it reads its samples then, and its map records also where they are what fails. -/
def Obligations.HostMemoryAccess : Prop :=
  (∀ (s : State) (rest : List Move) (a : Nat) (v : Byte) (w : BitVec 16),
    let u := { s with agenda := rest }
    let claimed := fun b : Nat => b ∈ s.pendingReads ∨ b ∈ s.pendingWrites
    (s.params.memBytes ≤ a →
      step { s with agenda := .memWrite a v :: rest } = .fault .noSuchAddress ∧
      step { s with agenda := .memRead a :: rest } = .fault .noSuchAddress) ∧
    (s.params.memBytes ≤ a + 1 → step { s with agenda := .memWrite16 a w :: rest } = .fault .noSuchAddress) ∧
    (a < s.params.memBytes → s.status.busy = true → claimed a →
      step { s with agenda := .memWrite a v :: rest } = .refused .hostMemoryDuty ∧
      step { s with agenda := .memRead a :: rest } = .refused .hostMemoryDuty) ∧
    (a + 1 < s.params.memBytes → s.status.busy = true → claimed a ∨ claimed (a + 1) →
      step { s with agenda := .memWrite16 a w :: rest } = .refused .hostMemoryDuty) ∧
    (a < s.params.memBytes → s.status.busy = false ∨ ¬claimed a → s.mem.wf →
      (∃ m : Memory, step { s with agenda := .memWrite a v :: rest } = .next { u with mem := m } ∧
        ∀ b, m.read b = if b = a then v else s.mem.read b) ∧
      step { s with agenda := .memRead a :: rest } = .next { u with hostReads := .mem a (s.mem.read a) :: s.hostReads }) ∧
    (a + 1 < s.params.memBytes → s.status.busy = false ∨ (¬claimed a ∧ ¬claimed (a + 1)) → s.mem.wf →
      ∃ m : Memory, step { s with agenda := .memWrite16 a w :: rest } = .next { u with mem := m } ∧
        ∀ b, m.read b =
          if b = a then w.extractLsb' 0 8 else if b = a + 1 then w.extractLsb' 8 8 else s.mem.read b)) ∧
  ∀ (s : State) (b : Nat),
    (b ∈ s.pendingWrites ↔
      ∃ i, decode s.pending = .ok i ∧ commandFault i s = none ∧ ∃ a, Spec.Writes i s a ∧ ((b : Int) = a ∨ (b : Int) = a + 1)) ∧
    (b ∈ s.pendingReads ↔
      ∃ i, decode s.pending = .ok i ∧
        ((commandFault i s = none ∧ ∃ a, Spec.Reads i s a ∧ ((b : Int) = a ∨ (b : Int) = a + 1)) ∨
         ((commandFault i s = none ∨ commandFault i s = some .tableRange) ∧ ∃ r, Spec.Records i s r ∧ r ≤ b ∧ b < r + 12)))
end

