-- ==== Sys2Proof/Laws/Arith.lean ====
section
/-! SUPPORT. The integer operators of R15, once: bounds and signs. -/

namespace Sys2Proof.Machine

theorem clip3_mem {lo hi : Int} (h : lo ≤ hi) (v : Int) : lo ≤ clip3 lo hi v ∧ clip3 lo hi v ≤ hi := by
  unfold clip3; omega

theorem clip3_eq {lo hi v : Int} (h₁ : lo ≤ v) (h₂ : v ≤ hi) : clip3 lo hi v = v := by unfold clip3; omega

theorem two_pow_pos (n : Nat) : (1 : Int) ≤ ((2 ^ n : Nat) : Int) := by
  exact_mod_cast Nat.one_le_two_pow

theorem clipS_mem (bd : Nat) (v : Int) : 0 ≤ clipS bd v ∧ clipS bd v ≤ ((2 ^ bd : Nat) : Int) - 1 :=
  clip3_mem (by have := two_pow_pos bd; omega) v

theorem clipS_eq {bd : Nat} {v : Int} (h₁ : 0 ≤ v) (h₂ : v ≤ ((2 ^ bd : Nat) : Int) - 1) : clipS bd v = v := clip3_eq h₁ h₂

theorem tdiv_neg_left (a b : Int) : tdiv (-a) b = -tdiv a b := Int.neg_tdiv ..

theorem iabs_neg (a : Int) : iabs (-a) = iabs a := by unfold iabs; omega

theorem sgn_neg (a : Int) : sgn (-a) = -sgn a := by unfold sgn; split_ifs <;> omega

theorem iabs_nonneg (a : Int) : 0 ≤ iabs a := by unfold iabs; omega

/-- The shift by a literal, as omega reads it. -/
theorem asr_one (a : Int) : asr a 1 = a / 2 := rfl

theorem asr_add_mul (a b : Int) (n : Nat) : asr (a + b * ((2 ^ n : Nat) : Int)) n = asr a n + b := by
  unfold asr
  exact Int.add_mul_ediv_right _ _ (by have := two_pow_pos n; omega)

theorem bits_lt (w : Word) (lo len : Nat) : bits w lo len < 2 ^ len := by
  unfold bits; exact BitVec.isLt _

end Sys2Proof.Machine
end

