-- ==== Sys2Proof/Laws/Coded.lean ====
section
/-! SUPPORT. The CODED bitmap: what a set and a mark leave, and the canonical form they keep. -/

namespace Sys2Proof.Machine

theorem mem_raster {w h : Nat} {p : Nat × Nat} : p ∈ raster w h ↔ p.1 < h ∧ p.2 < w := by
  obtain ⟨r, c⟩ := p
  simp [raster]

namespace Coded

theorem get_eq (c : Coded) (j i : Nat) : c.get j i = true ↔ (j, i) ∈ c := by simp [get]

theorem mem_set {c : Coded} {b p : Nat × Nat} : p ∈ set c b ↔ p = b ∨ p ∈ c := by
  induction c with
  | nil => simp [set]
  | cons a c ih =>
    simp only [set]
    split
    · simp
    · split
      · rename_i h; subst h; simp
      · simp only [List.mem_cons, ih]; tauto

theorem before_trans {a b c : Nat × Nat} (h₁ : before a b = true) (h₂ : before b c = true) : before a c = true := by
  simp only [before, Bool.or_eq_true, Bool.and_eq_true, decide_eq_true_eq, beq_iff_eq] at *; omega

theorem before_of_not {a b : Nat × Nat} (h₁ : ¬before b a = true) (h₂ : b ≠ a) : before a b = true := by
  have : ¬(b.1 = a.1 ∧ b.2 = a.2) := fun h => h₂ (Prod.ext h.1 h.2)
  simp only [before, Bool.or_eq_true, Bool.and_eq_true, decide_eq_true_eq, beq_iff_eq] at *; omega

/-- Setting a bit keeps the canonical form. -/
theorem wf_set {c : Coded} (hc : c.wf) (b : Nat × Nat) : (set c b).wf := by
  induction c with
  | nil => simp [set, wf]
  | cons a c ih =>
    have ha := List.pairwise_cons.1 hc
    simp only [set]
    split
    · rename_i h
      refine List.pairwise_cons.2 ⟨fun p hp => ?_, hc⟩
      rcases List.mem_cons.1 hp with rfl | hp
      · exact h
      · exact before_trans h (ha.1 p hp)
    · split
      · exact hc
      · rename_i h₁ h₂
        refine List.pairwise_cons.2 ⟨fun p hp => ?_, ih ha.2⟩
        rcases mem_set.1 hp with rfl | hp
        · exact before_of_not h₁ h₂
        · exact ha.1 p hp

theorem mem_foldl_set {c : Coded} {ps : List (Nat × Nat)} {f : Nat × Nat → Nat × Nat} {q : Nat × Nat} :
    q ∈ ps.foldl (fun c p => set c (f p)) c ↔ (∃ p ∈ ps, q = f p) ∨ q ∈ c := by
  induction ps generalizing c with
  | nil => simp
  | cons p ps ih => simp only [List.foldl_cons, ih, mem_set, List.mem_cons]; aesop

theorem wf_foldl_set {c : Coded} (hc : c.wf) (ps : List (Nat × Nat)) (f : Nat × Nat → Nat × Nat) :
    (ps.foldl (fun c p => set c (f p)) c).wf := by
  induction ps generalizing c with
  | nil => exact hc
  | cons p ps ih => exact ih (wf_set hc _)

/-- What a mark leaves (R210): the CU's own min blocks, and what was set before. -/
theorem mem_mark {c : Coded} {j0 i0 nH nW : Nat} {q : Nat × Nat} :
    q ∈ mark c j0 i0 nH nW ↔ (j0 ≤ q.1 ∧ q.1 < j0 + nH ∧ i0 ≤ q.2 ∧ q.2 < i0 + nW) ∨ q ∈ c := by
  unfold mark
  rw [mem_foldl_set (f := fun p => (j0 + p.1, i0 + p.2))]
  refine or_congr_left ⟨?_, fun h => ⟨(q.1 - j0, q.2 - i0), mem_raster.2 (by simp only; omega), ?_⟩⟩
  · rintro ⟨p, hp, rfl⟩
    have := mem_raster.1 hp
    simp only; omega
  · ext <;> simp only <;> omega

/-- A mark keeps the canonical form. -/
theorem wf_mark {c : Coded} (hc : c.wf) (j0 i0 nH nW : Nat) : (mark c j0 i0 nH nW).wf :=
  wf_foldl_set hc _ fun p => (j0 + p.1, i0 + p.2)

end Coded

end Sys2Proof.Machine
end

