-- ==== Sys2Proof/Laws/Memory.lean ====
section
/-! SUPPORT. Data memory: read after write, the canonical form that every operation keeps, and what a list of 16-bit stores
leaves. -/

namespace Sys2Proof.Machine.Memory

/-! ## One byte -/

theorem read_put_ne {a x : Nat} (b : Byte) (m : Memory) (h : x ≠ a) : read (put a b m) x = read m x := by
  unfold put; split
  · rfl
  · simp [read, Ne.symm h]

theorem read_unlisted {m : Memory} {a : Nat} (h : ∀ c ∈ m, c.1 ≠ a) : read m a = unlisted := by
  induction m with
  | nil => rfl
  | cons c m ih =>
    obtain ⟨k, b⟩ := c
    have hk : k ≠ a := h (k, b) (by simp)
    simp only [read, hk, if_false]
    exact ih fun c hc => h c (by simp [hc])

theorem read_put_same {a : Nat} (b : Byte) {m : Memory} (h : ∀ c ∈ m, c.1 ≠ a) : read (put a b m) a = b := by
  unfold put; split
  · rename_i hb; rw [hb]; exact read_unlisted h
  · simp [read]

theorem read_write_ne {m : Memory} {a x : Nat} (b : Byte) (h : x ≠ a) : read (write m a b) x = read m x := by
  induction m with
  | nil => exact read_put_ne b [] h
  | cons c m ih =>
    obtain ⟨k, v⟩ := c
    simp only [write]
    split
    · exact read_put_ne b _ h
    · split
      · rename_i hk; subst hk; simp [read_put_ne b m h, read, Ne.symm h]
      · simp only [read]; rw [ih]

theorem read_write_same {m : Memory} (hm : m.wf) (a : Nat) (b : Byte) : read (write m a b) a = b := by
  induction m with
  | nil => exact read_put_same b (by simp)
  | cons c m ih =>
    obtain ⟨k, v⟩ := c
    obtain ⟨hs, hv⟩ := hm
    rw [List.pairwise_cons] at hs
    simp only [write]
    split
    · rename_i h
      refine read_put_same b fun c hc => ?_
      rcases List.mem_cons.1 hc with rfl | hc
      · exact Nat.ne_of_gt h
      · have := hs.1 c hc; omega
    · split
      · rename_i h; subst h
        exact read_put_same b fun c hc => Nat.ne_of_gt (hs.1 c hc)
      · rename_i h₁ h₂
        simp only [read, Ne.symm h₂, if_false]
        exact ih ⟨hs.2, fun c hc => hv c (by simp [hc])⟩

theorem read_write {m : Memory} (hm : m.wf) (a : Nat) (b : Byte) (x : Nat) :
    read (write m a b) x = if x = a then b else read m x := by
  split
  · rename_i h; rw [h]; exact read_write_same hm a b
  · rename_i h; exact read_write_ne b h

/-! ## The canonical form -/

theorem mem_put {a : Nat} {b : Byte} {m : Memory} {c : Host.Cell} (h : c ∈ put a b m) : c = (a, b) ∧ b ≠ unlisted ∨ c ∈ m := by
  unfold put at h
  split at h
  · exact .inr h
  · rename_i hb
    rcases List.mem_cons.1 h with h | h
    · exact .inl ⟨h, hb⟩
    · exact .inr h

theorem mem_write {m : Memory} {a : Nat} {b : Byte} {c : Host.Cell} (h : c ∈ write m a b) :
    c = (a, b) ∧ b ≠ unlisted ∨ c ∈ m := by
  induction m with
  | nil => exact mem_put h
  | cons d m ih =>
    obtain ⟨k, v⟩ := d
    simp only [write] at h
    split at h
    · exact mem_put h
    · split at h
      · exact (mem_put h).imp_right fun h => by simp [h]
      · rcases List.mem_cons.1 h with h | h
        · exact .inr (by simp [h])
        · exact (ih h).imp_right fun h => by simp [h]

theorem wf_put {a : Nat} (b : Byte) {m : Memory} (hm : m.wf) (h : ∀ c ∈ m, a < c.1) : (put a b m).wf := by
  unfold put; split
  · exact hm
  · rename_i hb
    refine ⟨List.pairwise_cons.2 ⟨fun c hc => h c hc, hm.1⟩, fun c hc => ?_⟩
    rcases List.mem_cons.1 hc with rfl | hc
    · exact hb
    · exact hm.2 c hc

/-- A byte write keeps the canonical form. -/
theorem wf_write {m : Memory} (hm : m.wf) (a : Nat) (b : Byte) : (write m a b).wf := by
  induction m with
  | nil => exact wf_put b hm (by simp)
  | cons d m ih =>
    obtain ⟨k, v⟩ := d
    obtain ⟨hs, hv⟩ := hm
    have hs' := List.pairwise_cons.1 hs
    have hm' : wf m := ⟨hs'.2, fun c hc => hv c (by simp [hc])⟩
    simp only [write]
    split
    · rename_i h
      refine wf_put b ⟨hs, hv⟩ fun c hc => ?_
      rcases List.mem_cons.1 hc with rfl | hc
      · exact h
      · have := hs'.1 c hc; simp only at this; omega
    · split
      · rename_i h; subst h; exact wf_put b hm' fun c hc => hs'.1 c hc
      · rename_i h₁ h₂
        obtain ⟨hw₁, hw₂⟩ := ih hm'
        refine ⟨List.pairwise_cons.2 ⟨fun c hc => ?_, hw₁⟩, fun c hc => ?_⟩
        · rcases mem_write hc with ⟨rfl, -⟩ | hc
          · simp only; omega
          · exact hs'.1 c hc
        · rcases List.mem_cons.1 hc with rfl | hc
          · exact hv _ (by simp)
          · exact hw₂ c hc

/-- Two memories in canonical form that read the same at every address are the same data. -/
theorem ext_of_read {m n : Memory} (hm : m.wf) (hn : n.wf) (h : ∀ a, read m a = read n a) : m = n := by
  induction m generalizing n with
  | nil =>
    cases n with
    | nil => rfl
    | cons c n =>
      obtain ⟨k, v⟩ := c
      have := h k
      simp only [read, if_true] at this
      exact absurd this.symm (hn.2 (k, v) (by simp))
  | cons c m ih =>
    obtain ⟨k, v⟩ := c
    have hs := List.pairwise_cons.1 hm.1
    have hm' : wf m := ⟨hs.2, fun c hc => hm.2 c (by simp [hc])⟩
    cases n with
    | nil =>
      have := h k
      simp only [read, if_true] at this
      exact absurd this (hm.2 (k, v) (by simp))
    | cons d n =>
      obtain ⟨l, w⟩ := d
      have ht := List.pairwise_cons.1 hn.1
      have hn' : wf n := ⟨ht.2, fun c hc => hn.2 c (by simp [hc])⟩
      have hv : v ≠ unlisted := hm.2 (k, v) (by simp)
      have hw : w ≠ unlisted := hn.2 (l, w) (by simp)
      have hkl : k = l := by
        rcases Nat.lt_trichotomy k l with hlt | heq | hgt
        · have := h k
          rw [read, if_pos rfl, read_unlisted (m := (l, w) :: n)] at this
          · exact absurd this hv
          · intro c hc
            rcases List.mem_cons.1 hc with rfl | hc
            · exact Nat.ne_of_gt hlt
            · have := ht.1 c hc; simp only at this; omega
        · exact heq
        · have := h l
          rw [read_unlisted (m := (k, v) :: m), read, if_pos rfl] at this
          · exact absurd this.symm hw
          · intro c hc
            rcases List.mem_cons.1 hc with rfl | hc
            · exact Nat.ne_of_gt hgt
            · have := hs.1 c hc; simp only at this; omega
      subst hkl
      have hvw : v = w := by simpa [read] using h k
      subst hvw
      congr 1
      refine ih hm' hn' fun a => ?_
      by_cases hak : k = a
      · subst hak
        rw [read_unlisted fun c hc => Nat.ne_of_gt (hs.1 c hc), read_unlisted fun c hc => Nat.ne_of_gt (ht.1 c hc)]
      · simpa [read, hak] using h a

/-! ## 16-bit units -/

theorem wf_write16 {m : Memory} (hm : m.wf) (a v : Int) : (write16 m a v).wf := wf_write (wf_write hm _ _) _ _

theorem wf_writeAll {m : Memory} (hm : m.wf) (ws : List (Int × Int)) : (writeAll m ws).wf := by
  induction ws generalizing m with
  | nil => exact hm
  | cons w ws ih => exact ih (wf_write16 hm _ _)

theorem read16_range (m : Memory) (a : Int) : 0 ≤ read16 m a ∧ read16 m a ≤ 65535 := by
  unfold read16
  have h₁ := (read m a.toNat).isLt
  have h₂ := (read m (a.toNat + 1)).isLt
  omega

/-- A 16-bit write, byte by byte (R72): nothing but its two bytes changes. -/
theorem read_write16_ne {m : Memory} {a v : Int} {x : Nat} (h₁ : x ≠ a.toNat) (h₂ : x ≠ a.toNat + 1) :
    read (write16 m a v) x = read m x := by
  unfold write16; rw [read_write_ne _ h₂, read_write_ne _ h₁]

theorem read_write16_low {m : Memory} (hm : m.wf) (a v : Int) : read (write16 m a v) a.toNat = BitVec.ofInt 8 v := by
  unfold write16; rw [read_write_ne _ (by omega), read_write_same hm]

theorem read_write16_high {m : Memory} (hm : m.wf) (a v : Int) :
    read (write16 m a v) (a.toNat + 1) = BitVec.ofInt 8 (asr v 8) := by
  unfold write16; rw [read_write_same (wf_write hm _ _)]

theorem read16_write16_same {m : Memory} (hm : m.wf) (a v : Int) : read16 (write16 m a v) a = v % 65536 := by
  unfold read16
  rw [read_write16_low hm, read_write16_high hm]
  simp only [BitVec.toNat_ofInt, asr]
  norm_num
  omega

/-- Two 16-bit units overlap only where they are the same unit: their addresses are even. -/
theorem read16_write16_ne {m : Memory} {a b v : Int} (ha : 0 ≤ a) (hb : 0 ≤ b) (ha2 : a % 2 = 0) (hb2 : b % 2 = 0) (h : a ≠ b) :
    read16 (write16 m a v) b = read16 m b := by
  unfold read16
  rw [read_write16_ne (by omega) (by omega), read_write16_ne (by omega) (by omega)]

/-- A byte outside every unit of a list of stores reads as before. -/
theorem read_writeAll_ne {m : Memory} {ws : List (Int × Int)} {x : Nat}
    (h : ∀ w ∈ ws, x ≠ w.1.toNat ∧ x ≠ w.1.toNat + 1) : read (writeAll m ws) x = read m x := by
  induction ws generalizing m with
  | nil => rfl
  | cons w ws ih =>
    have hw := h w (by simp)
    rw [writeAll, List.foldl_cons, ← writeAll, ih fun w hw => h w (by simp [hw]), read_write16_ne hw.1 hw.2]

theorem read16_writeAll_ne {m : Memory} {ws : List (Int × Int)} {b : Int} (hb : 0 ≤ b) (hb2 : b % 2 = 0)
    (hw : ∀ w ∈ ws, 0 ≤ w.1 ∧ w.1 % 2 = 0 ∧ w.1 ≠ b) : read16 (writeAll m ws) b = read16 m b := by
  unfold read16
  rw [read_writeAll_ne, read_writeAll_ne] <;> intro w h <;> have := hw w h <;> omega

/-- Of several stores to one unit the last one stays (R17). -/
theorem read16_writeAll_last {m : Memory} (hm : m.wf) {before after : List (Int × Int)} {a v : Int} (ha : 0 ≤ a)
    (ha2 : a % 2 = 0) (h : ∀ w ∈ after, 0 ≤ w.1 ∧ w.1 % 2 = 0 ∧ w.1 ≠ a) :
    read16 (writeAll m (before ++ (a, v) :: after)) a = v % 65536 := by
  have : writeAll m (before ++ (a, v) :: after) = writeAll (write16 (writeAll m before) a v) after := by
    simp [writeAll, List.foldl_append]
  rw [this, read16_writeAll_ne ha ha2 h, read16_write16_same (wf_writeAll hm _)]

theorem writeAll_append (m : Memory) (vs ws : List (Int × Int)) : writeAll m (vs ++ ws) = writeAll (writeAll m vs) ws := by
  simp [writeAll, List.foldl_append]

theorem mem_write16 {m : Memory} {a v : Int} {c : Host.Cell} (h : c ∈ write16 m a v) :
    c.1 = a.toNat ∨ c.1 = a.toNat + 1 ∨ c ∈ m := by
  unfold write16 at h
  rcases mem_write h with ⟨rfl, -⟩ | h
  · exact .inr (.inl rfl)
  · rcases mem_write h with ⟨rfl, -⟩ | h
    · exact .inl rfl
    · exact .inr (.inr h)

/-- What a list of stores can have listed: the bytes of its units, and what was listed before. -/
theorem mem_writeAll {m : Memory} {ws : List (Int × Int)} {c : Host.Cell} (h : c ∈ writeAll m ws) :
    (∃ w ∈ ws, c.1 = w.1.toNat ∨ c.1 = w.1.toNat + 1) ∨ c ∈ m := by
  induction ws generalizing m with
  | nil => exact .inr h
  | cons w ws ih =>
    rw [writeAll, List.foldl_cons, ← writeAll] at h
    rcases ih h with ⟨u, hu, h⟩ | h
    · exact .inl ⟨u, by simp [hu], h⟩
    · rcases mem_write16 h with h | h | h
      · exact .inl ⟨w, by simp, .inl h⟩
      · exact .inl ⟨w, by simp, .inr h⟩
      · exact .inr h

/-! ## Power-up -/

theorem mem_powerUp {n : Nat} {c : Host.Cell} : c ∈ powerUp n ↔ c.1 < n ∧ c.2 = Config.powerUp c.1 ∧ c.2 ≠ unlisted := by
  obtain ⟨a, b⟩ := c
  simp only [powerUp, List.mem_filter, List.mem_map, List.mem_range, Prod.mk.injEq, bne_iff_ne, ne_eq]
  constructor
  · rintro ⟨⟨x, hx, rfl, rfl⟩, h⟩; exact ⟨hx, rfl, h⟩
  · rintro ⟨hx, rfl, h⟩; exact ⟨⟨a, hx, rfl, rfl⟩, h⟩

/-- Memory at power-up is in canonical form. -/
theorem wf_powerUp (n : Nat) : (powerUp n).wf := by
  have h : ((List.range n).map fun a => (a, Config.powerUp a)).Pairwise fun c d : Host.Cell => c.1 < d.1 :=
    List.pairwise_map.2 (List.pairwise_lt_range.imp fun h => h)
  exact ⟨h.filter _, fun c hc => (mem_powerUp.1 hc).2.2⟩

/-- A byte that the list of a canonical memory holds reads as listed. -/
theorem read_of_mem {m : Memory} (hm : m.wf) {a : Nat} {b : Byte} (h : (a, b) ∈ m) : read m a = b := by
  induction m with
  | nil => cases h
  | cons c m ih =>
    obtain ⟨k, v⟩ := c
    have hs := List.pairwise_cons.1 hm.1
    rcases List.mem_cons.1 h with h | h
    · cases h; simp [read]
    · have hk : k ≠ a := Nat.ne_of_lt (hs.1 _ h)
      simp only [read, if_neg hk]
      exact ih ⟨hs.2, fun c hc => hm.2 c (List.mem_cons_of_mem _ hc)⟩ h

/-- Every byte of memory at power-up is the free value of its address. -/
theorem read_powerUp {n a : Nat} (h : a < n) : read (powerUp n) a = Config.powerUp a := by
  by_cases hb : Config.powerUp a = unlisted
  · rw [hb]
    refine read_unlisted fun c hc he => ?_
    have := mem_powerUp.1 hc
    rw [he] at this
    exact this.2.2 (this.2.1.trans hb)
  · exact read_of_mem (wf_powerUp n) (mem_powerUp.2 ⟨h, rfl, hb⟩)

end Sys2Proof.Machine.Memory
end

