-- ==== Sys2Proof/Laws/Blocks.lean ====
section
/-! SUPPORT. Blocks of samples: the raster order, and what a block stored in it leaves at each of its samples. -/

namespace Sys2Proof.Machine

/-- The raster order of positions (row, column). -/
abbrev rasterBefore (p q : Nat × Nat) : Prop := p.1 < q.1 ∨ (p.1 = q.1 ∧ p.2 < q.2)

/-- A block lists its positions in raster order. -/
theorem raster_pairwise (w h : Nat) : (raster w h).Pairwise rasterBefore := by
  unfold raster
  rw [List.flatMap_def, List.pairwise_flatten]
  refine ⟨?_, ?_⟩
  · simp only [List.mem_map, List.mem_range, forall_exists_index, and_imp]
    rintro _ r - rfl
    rw [List.pairwise_map]
    exact List.pairwise_lt_range.imp fun h => .inr ⟨rfl, h⟩
  · rw [List.pairwise_map]
    refine List.pairwise_lt_range.imp fun hr p hp q hq => ?_
    simp only [List.mem_map] at hp hq
    obtain ⟨_, -, rfl⟩ := hp
    obtain ⟨_, -, rfl⟩ := hq
    exact .inl hr

/-- A block around one of its positions: all that follows in the list lies later in raster order. -/
theorem raster_split {w h r c : Nat} (hr : r < h) (hc : c < w) :
    ∃ before after, raster w h = before ++ (r, c) :: after ∧ ∀ p ∈ after, p.1 < h ∧ p.2 < w ∧ rasterBefore (r, c) p := by
  obtain ⟨before, after, he⟩ := List.append_of_mem (mem_raster.2 ⟨hr, hc⟩ : (r, c) ∈ raster w h)
  refine ⟨before, after, he, fun p hp => ?_⟩
  have hm : p ∈ raster w h := by rw [he]; simp [hp]
  have hs := (List.pairwise_append.1 (he ▸ raster_pairwise w h)).2.1
  exact ⟨(mem_raster.1 hm).1, (mem_raster.1 hm).2, (List.pairwise_cons.1 hs).1 p hp⟩

/-- The stores of a block around one of its samples. -/
theorem blockStores_split {base stride : Int} {w h r c : Nat} (o : Int → Int → Int) (hr : r < h) (hc : c < w) :
    ∃ before after, blockStores base stride w h o = before ++ (sampleAddr base stride c r, o r c) :: after ∧
      ∀ s ∈ after, ∃ r' c' : Nat, r' < h ∧ c' < w ∧ rasterBefore (r, c) (r', c') ∧ s.1 = sampleAddr base stride c' r' := by
  obtain ⟨before, after, he, ha⟩ := raster_split hr hc
  refine ⟨before.map fun p => (sampleAddr base stride p.2 p.1, o p.1 p.2),
    after.map fun p => (sampleAddr base stride p.2 p.1, o p.1 p.2), by simp [blockStores, he], fun s hs => ?_⟩
  obtain ⟨p, hp, rfl⟩ := List.mem_map.1 hs
  obtain ⟨h₁, h₂, h₃⟩ := ha p hp
  exact ⟨p.1, p.2, h₁, h₂, h₃, rfl⟩

/-- Sample addresses of a plane with an even base are even. -/
theorem sampleAddr_even {base : Int} (h : base % 2 = 0) (stride x y : Int) : sampleAddr base stride x y % 2 = 0 := by
  unfold sampleAddr; omega

end Sys2Proof.Machine
end

