-- ==== Sys2Proof/Laws/State.lean ====
section
/-! SUPPORT. One lemma per field per named update of the state, so that no later proof unfolds a record update. -/

namespace Sys2Proof.Machine

/-! ## complete -/

@[simp] theorem State.complete_params (s : State) : s.complete.params = s.params := rfl
@[simp] theorem State.complete_status (s : State) : s.complete.status = s.status.complete := rfl
@[simp] theorem State.complete_irqEn (s : State) : s.complete.irqEn = s.irqEn := rfl
@[simp] theorem State.complete_cfg0 (s : State) : s.complete.cfg0 = s.cfg0 := rfl
@[simp] theorem State.complete_cfg1 (s : State) : s.complete.cfg1 = s.cfg1 := rfl
@[simp] theorem State.complete_cfg2 (s : State) : s.complete.cfg2 = s.cfg2 := rfl
@[simp] theorem State.complete_mapBase (s : State) : s.complete.mapBase = s.mapBase := rfl
@[simp] theorem State.complete_picYBase (s : State) : s.complete.picYBase = s.picYBase := rfl
@[simp] theorem State.complete_picCbBase (s : State) : s.complete.picCbBase = s.picCbBase := rfl
@[simp] theorem State.complete_picCrBase (s : State) : s.complete.picCrBase = s.picCrBase := rfl
@[simp] theorem State.complete_picYStride (s : State) : s.complete.picYStride = s.picYStride := rfl
@[simp] theorem State.complete_picCStride (s : State) : s.complete.picCStride = s.picCStride := rfl
@[simp] theorem State.complete_results (s : State) : s.complete.results = s.results := rfl
@[simp] theorem State.complete_args (s : State) : s.complete.args = s.args := rfl
@[simp] theorem State.complete_refPoc0 (s : State) : s.complete.refPoc0 = s.refPoc0 := rfl
@[simp] theorem State.complete_refPoc1 (s : State) : s.complete.refPoc1 = s.refPoc1 := rfl
@[simp] theorem State.complete_coded (s : State) : s.complete.coded = s.coded := rfl
@[simp] theorem State.complete_pending (s : State) : s.complete.pending = s.pending := rfl
@[simp] theorem State.complete_mem (s : State) : s.complete.mem = s.mem := rfl
@[simp] theorem State.complete_agenda (s : State) : s.complete.agenda = s.agenda := rfl
@[simp] theorem State.complete_hostReads (s : State) : s.complete.hostReads = s.hostReads := rfl
@[simp] theorem State.complete_abandoned (s : State) : s.complete.abandoned = s.abandoned := rfl

/-! ## takeFault -/

@[simp] theorem State.takeFault_params (s : State) (e : ErrCode) : (s.takeFault e).params = s.params := rfl
@[simp] theorem State.takeFault_status (s : State) (e : ErrCode) : (s.takeFault e).status = s.status.fault e s.pending := rfl
@[simp] theorem State.takeFault_irqEn (s : State) (e : ErrCode) : (s.takeFault e).irqEn = s.irqEn := rfl
@[simp] theorem State.takeFault_cfg0 (s : State) (e : ErrCode) : (s.takeFault e).cfg0 = s.cfg0 := rfl
@[simp] theorem State.takeFault_cfg1 (s : State) (e : ErrCode) : (s.takeFault e).cfg1 = s.cfg1 := rfl
@[simp] theorem State.takeFault_cfg2 (s : State) (e : ErrCode) : (s.takeFault e).cfg2 = s.cfg2 := rfl
@[simp] theorem State.takeFault_mapBase (s : State) (e : ErrCode) : (s.takeFault e).mapBase = s.mapBase := rfl
@[simp] theorem State.takeFault_picYBase (s : State) (e : ErrCode) : (s.takeFault e).picYBase = s.picYBase := rfl
@[simp] theorem State.takeFault_picCbBase (s : State) (e : ErrCode) : (s.takeFault e).picCbBase = s.picCbBase := rfl
@[simp] theorem State.takeFault_picCrBase (s : State) (e : ErrCode) : (s.takeFault e).picCrBase = s.picCrBase := rfl
@[simp] theorem State.takeFault_picYStride (s : State) (e : ErrCode) : (s.takeFault e).picYStride = s.picYStride := rfl
@[simp] theorem State.takeFault_picCStride (s : State) (e : ErrCode) : (s.takeFault e).picCStride = s.picCStride := rfl
@[simp] theorem State.takeFault_results (s : State) (e : ErrCode) : (s.takeFault e).results = s.results := rfl
@[simp] theorem State.takeFault_args (s : State) (e : ErrCode) : (s.takeFault e).args = s.args := rfl
@[simp] theorem State.takeFault_refPoc0 (s : State) (e : ErrCode) : (s.takeFault e).refPoc0 = s.refPoc0 := rfl
@[simp] theorem State.takeFault_refPoc1 (s : State) (e : ErrCode) : (s.takeFault e).refPoc1 = s.refPoc1 := rfl
@[simp] theorem State.takeFault_coded (s : State) (e : ErrCode) : (s.takeFault e).coded = s.coded := rfl
@[simp] theorem State.takeFault_pending (s : State) (e : ErrCode) : (s.takeFault e).pending = s.pending := rfl
@[simp] theorem State.takeFault_mem (s : State) (e : ErrCode) : (s.takeFault e).mem = s.mem := rfl
@[simp] theorem State.takeFault_agenda (s : State) (e : ErrCode) : (s.takeFault e).agenda = s.agenda := rfl
@[simp] theorem State.takeFault_hostReads (s : State) (e : ErrCode) : (s.takeFault e).hostReads = s.hostReads := rfl
@[simp] theorem State.takeFault_abandoned (s : State) (e : ErrCode) : (s.takeFault e).abandoned = s.abandoned := rfl

/-! ## clearStatus -/

@[simp] theorem State.clearStatus_params (s : State) (v : Word) : (s.clearStatus v).params = s.params := rfl
@[simp] theorem State.clearStatus_status (s : State) (v : Word) : (s.clearStatus v).status = s.status.writeOneToClear v := rfl
@[simp] theorem State.clearStatus_irqEn (s : State) (v : Word) : (s.clearStatus v).irqEn = s.irqEn := rfl
@[simp] theorem State.clearStatus_cfg0 (s : State) (v : Word) : (s.clearStatus v).cfg0 = s.cfg0 := rfl
@[simp] theorem State.clearStatus_cfg1 (s : State) (v : Word) : (s.clearStatus v).cfg1 = s.cfg1 := rfl
@[simp] theorem State.clearStatus_cfg2 (s : State) (v : Word) : (s.clearStatus v).cfg2 = s.cfg2 := rfl
@[simp] theorem State.clearStatus_mapBase (s : State) (v : Word) : (s.clearStatus v).mapBase = s.mapBase := rfl
@[simp] theorem State.clearStatus_picYBase (s : State) (v : Word) : (s.clearStatus v).picYBase = s.picYBase := rfl
@[simp] theorem State.clearStatus_picCbBase (s : State) (v : Word) : (s.clearStatus v).picCbBase = s.picCbBase := rfl
@[simp] theorem State.clearStatus_picCrBase (s : State) (v : Word) : (s.clearStatus v).picCrBase = s.picCrBase := rfl
@[simp] theorem State.clearStatus_picYStride (s : State) (v : Word) : (s.clearStatus v).picYStride = s.picYStride := rfl
@[simp] theorem State.clearStatus_picCStride (s : State) (v : Word) : (s.clearStatus v).picCStride = s.picCStride := rfl
@[simp] theorem State.clearStatus_results (s : State) (v : Word) : (s.clearStatus v).results = s.results := rfl
@[simp] theorem State.clearStatus_args (s : State) (v : Word) : (s.clearStatus v).args = s.args := rfl
@[simp] theorem State.clearStatus_refPoc0 (s : State) (v : Word) : (s.clearStatus v).refPoc0 = s.refPoc0 := rfl
@[simp] theorem State.clearStatus_refPoc1 (s : State) (v : Word) : (s.clearStatus v).refPoc1 = s.refPoc1 := rfl
@[simp] theorem State.clearStatus_coded (s : State) (v : Word) : (s.clearStatus v).coded = s.coded := rfl
@[simp] theorem State.clearStatus_pending (s : State) (v : Word) : (s.clearStatus v).pending = s.pending := rfl
@[simp] theorem State.clearStatus_mem (s : State) (v : Word) : (s.clearStatus v).mem = s.mem := rfl
@[simp] theorem State.clearStatus_agenda (s : State) (v : Word) : (s.clearStatus v).agenda = s.agenda := rfl
@[simp] theorem State.clearStatus_hostReads (s : State) (v : Word) : (s.clearStatus v).hostReads = s.hostReads := rfl
@[simp] theorem State.clearStatus_abandoned (s : State) (v : Word) : (s.clearStatus v).abandoned = s.abandoned := rfl

/-! ## ignoreWrite -/

@[simp] theorem State.ignoreWrite_params (s : State) : s.ignoreWrite.params = s.params := rfl
@[simp] theorem State.ignoreWrite_status (s : State) : s.ignoreWrite.status = s.status.ignored := rfl
@[simp] theorem State.ignoreWrite_irqEn (s : State) : s.ignoreWrite.irqEn = s.irqEn := rfl
@[simp] theorem State.ignoreWrite_cfg0 (s : State) : s.ignoreWrite.cfg0 = s.cfg0 := rfl
@[simp] theorem State.ignoreWrite_cfg1 (s : State) : s.ignoreWrite.cfg1 = s.cfg1 := rfl
@[simp] theorem State.ignoreWrite_cfg2 (s : State) : s.ignoreWrite.cfg2 = s.cfg2 := rfl
@[simp] theorem State.ignoreWrite_mapBase (s : State) : s.ignoreWrite.mapBase = s.mapBase := rfl
@[simp] theorem State.ignoreWrite_picYBase (s : State) : s.ignoreWrite.picYBase = s.picYBase := rfl
@[simp] theorem State.ignoreWrite_picCbBase (s : State) : s.ignoreWrite.picCbBase = s.picCbBase := rfl
@[simp] theorem State.ignoreWrite_picCrBase (s : State) : s.ignoreWrite.picCrBase = s.picCrBase := rfl
@[simp] theorem State.ignoreWrite_picYStride (s : State) : s.ignoreWrite.picYStride = s.picYStride := rfl
@[simp] theorem State.ignoreWrite_picCStride (s : State) : s.ignoreWrite.picCStride = s.picCStride := rfl
@[simp] theorem State.ignoreWrite_results (s : State) : s.ignoreWrite.results = s.results := rfl
@[simp] theorem State.ignoreWrite_args (s : State) : s.ignoreWrite.args = s.args := rfl
@[simp] theorem State.ignoreWrite_refPoc0 (s : State) : s.ignoreWrite.refPoc0 = s.refPoc0 := rfl
@[simp] theorem State.ignoreWrite_refPoc1 (s : State) : s.ignoreWrite.refPoc1 = s.refPoc1 := rfl
@[simp] theorem State.ignoreWrite_coded (s : State) : s.ignoreWrite.coded = s.coded := rfl
@[simp] theorem State.ignoreWrite_pending (s : State) : s.ignoreWrite.pending = s.pending := rfl
@[simp] theorem State.ignoreWrite_mem (s : State) : s.ignoreWrite.mem = s.mem := rfl
@[simp] theorem State.ignoreWrite_agenda (s : State) : s.ignoreWrite.agenda = s.agenda := rfl
@[simp] theorem State.ignoreWrite_hostReads (s : State) : s.ignoreWrite.hostReads = s.hostReads := rfl
@[simp] theorem State.ignoreWrite_abandoned (s : State) : s.ignoreWrite.abandoned = s.abandoned := rfl

/-! ## acceptCommand -/

@[simp] theorem State.acceptCommand_params (s : State) (w : Word) : (s.acceptCommand w).params = s.params := rfl
@[simp] theorem State.acceptCommand_status (s : State) (w : Word) : (s.acceptCommand w).status = s.status.accept := rfl
@[simp] theorem State.acceptCommand_irqEn (s : State) (w : Word) : (s.acceptCommand w).irqEn = s.irqEn := rfl
@[simp] theorem State.acceptCommand_cfg0 (s : State) (w : Word) : (s.acceptCommand w).cfg0 = s.cfg0 := rfl
@[simp] theorem State.acceptCommand_cfg1 (s : State) (w : Word) : (s.acceptCommand w).cfg1 = s.cfg1 := rfl
@[simp] theorem State.acceptCommand_cfg2 (s : State) (w : Word) : (s.acceptCommand w).cfg2 = s.cfg2 := rfl
@[simp] theorem State.acceptCommand_mapBase (s : State) (w : Word) : (s.acceptCommand w).mapBase = s.mapBase := rfl
@[simp] theorem State.acceptCommand_picYBase (s : State) (w : Word) : (s.acceptCommand w).picYBase = s.picYBase := rfl
@[simp] theorem State.acceptCommand_picCbBase (s : State) (w : Word) : (s.acceptCommand w).picCbBase = s.picCbBase := rfl
@[simp] theorem State.acceptCommand_picCrBase (s : State) (w : Word) : (s.acceptCommand w).picCrBase = s.picCrBase := rfl
@[simp] theorem State.acceptCommand_picYStride (s : State) (w : Word) : (s.acceptCommand w).picYStride = s.picYStride := rfl
@[simp] theorem State.acceptCommand_picCStride (s : State) (w : Word) : (s.acceptCommand w).picCStride = s.picCStride := rfl
@[simp] theorem State.acceptCommand_results (s : State) (w : Word) : (s.acceptCommand w).results = s.results := rfl
@[simp] theorem State.acceptCommand_args (s : State) (w : Word) : (s.acceptCommand w).args = s.args := rfl
@[simp] theorem State.acceptCommand_refPoc0 (s : State) (w : Word) : (s.acceptCommand w).refPoc0 = s.refPoc0 := rfl
@[simp] theorem State.acceptCommand_refPoc1 (s : State) (w : Word) : (s.acceptCommand w).refPoc1 = s.refPoc1 := rfl
@[simp] theorem State.acceptCommand_coded (s : State) (w : Word) : (s.acceptCommand w).coded = s.coded := rfl
@[simp] theorem State.acceptCommand_pending (s : State) (w : Word) : (s.acceptCommand w).pending = w := rfl
@[simp] theorem State.acceptCommand_mem (s : State) (w : Word) : (s.acceptCommand w).mem = s.mem := rfl
@[simp] theorem State.acceptCommand_agenda (s : State) (w : Word) : (s.acceptCommand w).agenda = s.agenda := rfl
@[simp] theorem State.acceptCommand_hostReads (s : State) (w : Word) : (s.acceptCommand w).hostReads = s.hostReads := rfl
@[simp] theorem State.acceptCommand_abandoned (s : State) (w : Word) : (s.acceptCommand w).abandoned = s.abandoned := rfl

/-! ## setResult -/

@[simp] theorem State.setResult_params (s : State) (i : Fin 4) (v : Int) : (s.setResult i v).params = s.params := rfl
@[simp] theorem State.setResult_status (s : State) (i : Fin 4) (v : Int) : (s.setResult i v).status = s.status := rfl
@[simp] theorem State.setResult_irqEn (s : State) (i : Fin 4) (v : Int) : (s.setResult i v).irqEn = s.irqEn := rfl
@[simp] theorem State.setResult_cfg0 (s : State) (i : Fin 4) (v : Int) : (s.setResult i v).cfg0 = s.cfg0 := rfl
@[simp] theorem State.setResult_cfg1 (s : State) (i : Fin 4) (v : Int) : (s.setResult i v).cfg1 = s.cfg1 := rfl
@[simp] theorem State.setResult_cfg2 (s : State) (i : Fin 4) (v : Int) : (s.setResult i v).cfg2 = s.cfg2 := rfl
@[simp] theorem State.setResult_mapBase (s : State) (i : Fin 4) (v : Int) : (s.setResult i v).mapBase = s.mapBase := rfl
@[simp] theorem State.setResult_picYBase (s : State) (i : Fin 4) (v : Int) : (s.setResult i v).picYBase = s.picYBase := rfl
@[simp] theorem State.setResult_picCbBase (s : State) (i : Fin 4) (v : Int) : (s.setResult i v).picCbBase = s.picCbBase := rfl
@[simp] theorem State.setResult_picCrBase (s : State) (i : Fin 4) (v : Int) : (s.setResult i v).picCrBase = s.picCrBase := rfl
@[simp] theorem State.setResult_picYStride (s : State) (i : Fin 4) (v : Int) : (s.setResult i v).picYStride = s.picYStride := rfl
@[simp] theorem State.setResult_picCStride (s : State) (i : Fin 4) (v : Int) : (s.setResult i v).picCStride = s.picCStride := rfl
@[simp] theorem State.setResult_results (s : State) (i : Fin 4) (v : Int) : (s.setResult i v).results = s.results.set i (low32 v) := rfl
@[simp] theorem State.setResult_args (s : State) (i : Fin 4) (v : Int) : (s.setResult i v).args = s.args := rfl
@[simp] theorem State.setResult_refPoc0 (s : State) (i : Fin 4) (v : Int) : (s.setResult i v).refPoc0 = s.refPoc0 := rfl
@[simp] theorem State.setResult_refPoc1 (s : State) (i : Fin 4) (v : Int) : (s.setResult i v).refPoc1 = s.refPoc1 := rfl
@[simp] theorem State.setResult_coded (s : State) (i : Fin 4) (v : Int) : (s.setResult i v).coded = s.coded := rfl
@[simp] theorem State.setResult_pending (s : State) (i : Fin 4) (v : Int) : (s.setResult i v).pending = s.pending := rfl
@[simp] theorem State.setResult_mem (s : State) (i : Fin 4) (v : Int) : (s.setResult i v).mem = s.mem := rfl
@[simp] theorem State.setResult_agenda (s : State) (i : Fin 4) (v : Int) : (s.setResult i v).agenda = s.agenda := rfl
@[simp] theorem State.setResult_hostReads (s : State) (i : Fin 4) (v : Int) : (s.setResult i v).hostReads = s.hostReads := rfl
@[simp] theorem State.setResult_abandoned (s : State) (i : Fin 4) (v : Int) : (s.setResult i v).abandoned = s.abandoned := rfl

/-! ## The status updates -/

@[simp] theorem Status.complete_busy (t : Status) : t.complete.busy = false := rfl
@[simp] theorem Status.complete_done (t : Status) : t.complete.done = true := rfl
@[simp] theorem Status.complete_err (t : Status) : t.complete.err = t.err := rfl
@[simp] theorem Status.complete_wign (t : Status) : t.complete.wign = t.wign := rfl
@[simp] theorem Status.complete_errCode (t : Status) : t.complete.errCode = t.errCode := rfl
@[simp] theorem Status.complete_errOp (t : Status) : t.complete.errOp = t.errOp := rfl
@[simp] theorem Status.fault_busy (t : Status) (e : ErrCode) (w : Word) : (t.fault e w).busy = false := rfl
@[simp] theorem Status.fault_done (t : Status) (e : ErrCode) (w : Word) : (t.fault e w).done = true := rfl
@[simp] theorem Status.fault_err (t : Status) (e : ErrCode) (w : Word) : (t.fault e w).err = true := rfl
@[simp] theorem Status.fault_wign (t : Status) (e : ErrCode) (w : Word) : (t.fault e w).wign = t.wign := rfl
@[simp] theorem Status.fault_errCode (t : Status) (e : ErrCode) (w : Word) : (t.fault e w).errCode = e.code := rfl
@[simp] theorem Status.fault_errOp (t : Status) (e : ErrCode) (w : Word) : (t.fault e w).errOp = w.extractLsb' 0 8 := rfl
@[simp] theorem Status.accept_busy (t : Status) : t.accept.busy = true := rfl
@[simp] theorem Status.accept_done (t : Status) : t.accept.done = false := rfl
@[simp] theorem Status.accept_err (t : Status) : t.accept.err = t.err := rfl
@[simp] theorem Status.accept_wign (t : Status) : t.accept.wign = t.wign := rfl
@[simp] theorem Status.accept_errCode (t : Status) : t.accept.errCode = t.errCode := rfl
@[simp] theorem Status.accept_errOp (t : Status) : t.accept.errOp = t.errOp := rfl
@[simp] theorem Status.ignored_busy (t : Status) : t.ignored.busy = t.busy := rfl
@[simp] theorem Status.ignored_done (t : Status) : t.ignored.done = t.done := rfl
@[simp] theorem Status.ignored_err (t : Status) : t.ignored.err = t.err := rfl
@[simp] theorem Status.ignored_wign (t : Status) : t.ignored.wign = true := rfl
@[simp] theorem Status.ignored_errCode (t : Status) : t.ignored.errCode = t.errCode := rfl
@[simp] theorem Status.ignored_errOp (t : Status) : t.ignored.errOp = t.errOp := rfl
@[simp] theorem Status.writeOneToClear_busy (t : Status) (v : Word) : (t.writeOneToClear v).busy = t.busy := rfl
@[simp] theorem Status.writeOneToClear_done (t : Status) (v : Word) :
    (t.writeOneToClear v).done = (t.done && !v.getLsbD 1) := rfl
@[simp] theorem Status.writeOneToClear_err (t : Status) (v : Word) :
    (t.writeOneToClear v).err = (t.err && !v.getLsbD 2) := rfl
@[simp] theorem Status.writeOneToClear_wign (t : Status) (v : Word) :
    (t.writeOneToClear v).wign = (t.wign && !v.getLsbD 3) := rfl

/-! ## How a command ends -/

@[simp] theorem State.finish_some (s : State) (e : ErrCode) (f : State → State) : s.finish (some e) f = s.takeFault e := rfl
@[simp] theorem State.finish_none (s : State) (f : State → State) : s.finish none f = (f s).complete := rfl
@[simp] theorem runCommand_eq (g : State → Option ErrCode) (f : State → State) (s : State) :
    runCommand g f s = .next (s.finish (g s) f) := rfl

end Sys2Proof.Machine
end

