-- ==== Sys2Proof/Laws/Ops.lean ====
section
/-! SUPPORT. The shared operations, once: the checks of a command, how it ends, what its effect can write, and what the lines of
the deblocking commands store. -/

namespace Sys2Proof.Machine

/-! ## Checks -/

@[simp] theorem firstFault_nil : firstFault [] = none := rfl

@[simp] theorem firstFault_cons_true (e : ErrCode) (l : List (Bool × ErrCode)) :
    firstFault ((true, e) :: l) = firstFault l := rfl

@[simp] theorem firstFault_cons_false (e : ErrCode) (l : List (Bool × ErrCode)) :
    firstFault ((false, e) :: l) = some e := rfl

/-- No fault is raised exactly where every check holds. -/
theorem firstFault_eq_none {l : List (Bool × ErrCode)} : firstFault l = none ↔ ∀ c ∈ l, c.1 = true := by
  induction l with
  | nil => simp
  | cons c l ih => obtain ⟨ok, e⟩ := c; cases ok <;> simp [ih]

/-! ## A command -/

/-- The effect of each command on a state that passes its checks. -/
def commandEffect : Instr → State → State
  | .nop => id
  | .mcPredLuma => predEffect false
  | .mcPredChroma => predEffect true
  | .mcBiAvg => effectMcBiAvg
  | .mcMvClip => effectMcMvClip
  | .mcBlock => effectMcBlock
  | .dfBs => effectDfBs
  | .dfEdgeLuma => edgeEffect State.edgeLumaLines
  | .dfEdgeChroma => edgeEffect State.edgeChromaLines
  | .dfQpcCb => effectDfQpc .cb
  | .dfQpcCr => effectDfQpc .cr
  | .dfPassBegin => effectDfPassBegin
  | .dfCuHor => cuEffect .hor
  | .dfCuVer => cuEffect .ver

/-- Every command is its checks, then its effect, then its completion. -/
theorem exec_eq (i : Instr) (s : State) : exec i s = .next (s.finish (commandFault i s) (commandEffect i)) := by
  cases i <;> rfl

/-- A command whose check fails takes that fault and does nothing else (R252). -/
theorem exec_of_fault {i : Instr} {s : State} {e : ErrCode} (h : commandFault i s = some e) :
    exec i s = .next (s.takeFault e) := by rw [exec_eq, h, State.finish_some]

/-- A command whose checks hold has its effect and completes. -/
theorem exec_of_runs {i : Instr} {s : State} (h : commandFault i s = none) :
    exec i s = .next (commandEffect i s).complete := by rw [exec_eq, h, State.finish_none]

/-- Everything a command can do (R252): it takes a fault, or it has its effect and completes. -/
theorem exec_cases {i : Instr} {s t : State} (h : exec i s = .next t) :
    (∃ e, commandFault i s = some e ∧ t = s.takeFault e) ∨
    (commandFault i s = none ∧ t = (commandEffect i s).complete) := by
  rw [exec_eq] at h
  injection h with h
  cases hf : commandFault i s with
  | none => exact .inr ⟨rfl, by rw [← h, hf]; rfl⟩
  | some e => exact .inl ⟨e, rfl, by rw [← h, hf]; rfl⟩

/-- What an effect can write: RESULT, CODED and data memory, and nothing else. -/
theorem commandEffect_shape (i : Instr) (s : State) :
    commandEffect i s =
      { s with results := (commandEffect i s).results, coded := (commandEffect i s).coded,
               mem := (commandEffect i s).mem } := by
  cases i
  case mcMvClip => simp only [commandEffect, effectMcMvClip, State.setResult]
  all_goals rfl

/-! ## Deblocking lines -/

/-- The addresses a line stores to are those it is said to write. -/
theorem EdgeLine.stores_fst (e : EdgeLine) (m : Memory) : (e.stores m).map Prod.fst = e.writes := by
  unfold EdgeLine.stores EdgeLine.writes; split <;> rfl

theorem EdgeLine.fst_mem_writes {e : EdgeLine} {m : Memory} {w : Int × Int} (h : w ∈ e.stores m) : w.1 ∈ e.writes := by
  rw [← e.stores_fst m]; exact List.mem_map_of_mem h

theorem EdgeLine.writes_sub_reads {e : EdgeLine} {a : Int} (h : a ∈ e.writes) : a ∈ e.reads := by
  unfold EdgeLine.writes at h; unfold EdgeLine.reads; split at h <;> (simp_all; try tauto)

theorem wf_filterLines {m : Memory} (hm : m.wf) (es : List EdgeLine) : (filterLines m es).wf := by
  induction es generalizing m with
  | nil => exact hm
  | cons e es ih => exact ih (Memory.wf_writeAll hm _)

theorem filterLines_cons (m : Memory) (e : EdgeLine) (es : List EdgeLine) :
    filterLines m (e :: es) = filterLines (filterLine m e) es := rfl

theorem filterLines_append (m : Memory) (ds es : List EdgeLine) :
    filterLines m (ds ++ es) = filterLines (filterLines m ds) es := by simp [filterLines, List.foldl_append]

/-- A byte outside the samples the lines write reads as before. -/
theorem read_filterLines_ne {m : Memory} {es : List EdgeLine} {x : Nat}
    (h : ∀ a ∈ es.flatMap EdgeLine.writes, x ≠ a.toNat ∧ x ≠ a.toNat + 1) :
    Memory.read (filterLines m es) x = Memory.read m x := by
  induction es generalizing m with
  | nil => rfl
  | cons e es ih =>
    rw [filterLines_cons, ih fun a ha => h a (by simp only [List.flatMap_cons, List.mem_append]; exact .inr ha)]
    exact Memory.read_writeAll_ne fun w hw =>
      h w.1 (by simp only [List.flatMap_cons, List.mem_append]; exact .inl (EdgeLine.fst_mem_writes hw))

/-- What filtered lines can have listed: the bytes of the samples they write, and what was listed before. -/
theorem mem_filterLines {m : Memory} {es : List EdgeLine} {c : Host.Cell} (h : c ∈ filterLines m es) :
    (∃ a ∈ es.flatMap EdgeLine.writes, c.1 = a.toNat ∨ c.1 = a.toNat + 1) ∨ c ∈ m := by
  induction es generalizing m with
  | nil => exact .inr h
  | cons e es ih =>
    rcases ih (m := filterLine m e) h with ⟨a, ha, h⟩ | h
    · exact .inl ⟨a, by simp only [List.flatMap_cons, List.mem_append]; exact .inr ha, h⟩
    · rcases Memory.mem_writeAll h with ⟨w, hw, h⟩ | h
      · exact .inl ⟨w.1, by simp only [List.flatMap_cons, List.mem_append]; exact .inl (EdgeLine.fst_mem_writes hw), h⟩
      · exact .inr h

/-! ## Blocks -/

theorem blockStores_fst (base stride : Int) (w h : Nat) (o : Int → Int → Int) :
    (blockStores base stride w h o).map Prod.fst = blockAddrs base stride w h := by
  simp [blockStores, blockAddrs]

theorem fst_mem_blockAddrs {base stride : Int} {w h : Nat} {o : Int → Int → Int} {p : Int × Int}
    (hp : p ∈ blockStores base stride w h o) : p.1 ∈ blockAddrs base stride w h := by
  rw [← blockStores_fst base stride w h o]; exact List.mem_map_of_mem hp

end Sys2Proof.Machine
end

