-- ==== Sys2Proof/Laws/Commands.lean ====
section
/-! SUPPORT. What every command does to data memory, and where it does it: the lemmas an invariant of the step is proved from. -/

namespace Sys2Proof.Machine

/-! ## Ranges -/

theorem allInRange_iff {s : State} {as : List Int} :
    s.allInRange as = true ↔ ∀ a ∈ as, 0 ≤ a ∧ a + 2 ≤ s.params.memBytes := by
  simp [State.allInRange, State.inRange]

theorem even_iff {a : Int} : even a = true ↔ a % 2 = 0 := by simp [even]

/-- The addresses the lines of an edge write are among those they read. -/
theorem lineWrites_sub_lineReads {es : List EdgeLine} {a : Int} (h : a ∈ es.flatMap EdgeLine.writes) :
    a ∈ es.flatMap EdgeLine.reads := by
  obtain ⟨e, he, ha⟩ := List.mem_flatMap.1 h
  exact List.mem_flatMap.2 ⟨e, he, EdgeLine.writes_sub_reads ha⟩

/-- A command whose checks hold writes inside data memory (R75). -/
theorem commandWrites_inRange {i : Instr} {s : State} (h : commandFault i s = none) :
    ∀ a ∈ commandWrites i s, 0 ≤ a ∧ a + 2 ≤ s.params.memBytes := by
  cases i
  case nop | mcMvClip | dfBs | dfQpcCb | dfQpcCr | dfPassBegin => intro a ha; simp [commandWrites] at ha
  all_goals
    have hm := firstFault_eq_none.1 h
    simp only [List.mem_cons, List.not_mem_nil, or_false, forall_eq_or_imp, forall_eq, Bool.and_eq_true,
      allInRange_iff] at hm
  case mcPredLuma | mcPredChroma => exact hm.2.2.2.2
  case mcBiAvg => exact hm.2.2.2
  case mcBlock => exact hm.2.2.2.2.2
  case dfEdgeLuma | dfEdgeChroma => exact fun a ha => hm.2.2.2 a (lineWrites_sub_lineReads ha)
  case dfCuHor | dfCuVer => exact fun a ha => hm.2.2.2.1.2 a (lineWrites_sub_lineReads ha)

/-! ## Effects -/

/-- Every effect keeps data memory canonical. -/
theorem wf_commandEffect {s : State} (h : s.mem.wf) (i : Instr) : (commandEffect i s).mem.wf := by
  cases i
  case nop | mcMvClip | dfBs | dfQpcCb | dfQpcCr | dfPassBegin => exact h
  case mcPredLuma | mcPredChroma | mcBiAvg | mcBlock => exact Memory.wf_writeAll h _
  case dfEdgeLuma | dfEdgeChroma | dfCuHor | dfCuVer => exact wf_filterLines h _

/-- The stores of MC_BLOCK are at its write set. -/
theorem fst_mem_blockWrites {s : State} {w : Int × Int} (h : w ∈ s.blockStoreList) : w.1 ∈ s.blockWrites := by
  obtain ⟨p, hp, hw⟩ := List.mem_flatMap.1 h
  exact List.mem_flatMap.2 ⟨p, hp, fst_mem_blockAddrs hw⟩

/-- A byte listed after an effect lies in the command's write set, or was listed before. -/
theorem mem_commandEffect {i : Instr} {s : State} {c : Host.Cell} (h : c ∈ (commandEffect i s).mem) :
    (∃ a ∈ commandWrites i s, c.1 = a.toNat ∨ c.1 = a.toNat + 1) ∨ c ∈ s.mem := by
  cases i
  case nop | mcMvClip | dfBs | dfQpcCb | dfQpcCr | dfPassBegin => exact .inr h
  case mcPredLuma | mcPredChroma | mcBiAvg =>
    exact (Memory.mem_writeAll h).imp_left fun ⟨w, hw, hc⟩ => ⟨w.1, fst_mem_blockAddrs hw, hc⟩
  case mcBlock => exact (Memory.mem_writeAll h).imp_left fun ⟨w, hw, hc⟩ => ⟨w.1, fst_mem_blockWrites hw, hc⟩
  case dfEdgeLuma | dfEdgeChroma | dfCuHor | dfCuVer => exact mem_filterLines h

/-! ## The agenda

No command reads the agenda, so what the running command claims does not depend on it. -/

@[simp] theorem commandFault_agenda (i : Instr) (s : State) (l : List Move) :
    commandFault i { s with agenda := l } = commandFault i s := by cases i <;> rfl

@[simp] theorem commandWrites_agenda (i : Instr) (s : State) (l : List Move) :
    commandWrites i { s with agenda := l } = commandWrites i s := by cases i <;> rfl

@[simp] theorem commandReads_agenda (i : Instr) (s : State) (l : List Move) :
    commandReads i { s with agenda := l } = commandReads i s := by cases i <;> rfl

@[simp] theorem commandRecords_agenda (i : Instr) (s : State) (l : List Move) :
    commandRecords i { s with agenda := l } = commandRecords i s := by cases i <;> rfl

@[simp] theorem pendingWrites_agenda (s : State) (l : List Move) :
    { s with agenda := l }.pendingWrites = s.pendingWrites := by
  simp only [State.pendingWrites, writesUnder, commandFault_agenda, commandWrites_agenda]

@[simp] theorem pendingReads_agenda (s : State) (l : List Move) :
    { s with agenda := l }.pendingReads = s.pendingReads := by
  simp only [State.pendingReads, readsUnder, commandFault_agenda, commandReads_agenda, commandRecords_agenda]

@[simp] theorem claimed_agenda (s : State) (l : List Move) (a : Nat) :
    { s with agenda := l }.claimed a = s.claimed a := by
  simp only [State.claimed, pendingWrites_agenda, pendingReads_agenda]

/-! ## What the running command claims -/

theorem mem_bytesFrom {n : Nat} {as : List Int} {b : Nat} :
    b ∈ bytesFrom n as ↔ ∃ a ∈ as, a.toNat ≤ b ∧ b < a.toNat + n := by
  simp only [bytesFrom, List.mem_flatMap, List.mem_map, List.mem_range]
  constructor
  · rintro ⟨a, ha, i, hi, rfl⟩; exact ⟨a, ha, by omega, by omega⟩
  · rintro ⟨a, ha, h₁, h₂⟩; exact ⟨a, ha, b - a.toNat, by omega, by omega⟩

/-- The write set of the running command: it is legal, its checks hold, and the byte is one it writes. -/
theorem mem_pendingWrites {s : State} {b : Nat} :
    b ∈ s.pendingWrites ↔
      ∃ i, decode s.pending = .ok i ∧ commandFault i s = none ∧ b ∈ bytesFrom 2 (commandWrites i s) := by
  unfold State.pendingWrites writesUnder
  cases decode s.pending with
  | error e => simp
  | ok i => cases h : commandFault i s <;> simp [h]

/-- The read set of the running command: its samples where its checks hold, and its records also where they are what fails. -/
theorem mem_pendingReads {s : State} {b : Nat} :
    b ∈ s.pendingReads ↔
      ∃ i, decode s.pending = .ok i ∧
        (commandFault i s = none ∧ b ∈ bytesFrom 2 (commandReads i s) ∨
         (commandFault i s = none ∨ commandFault i s = some .tableRange) ∧
           b ∈ bytesFrom recordBytes (commandRecords i s)) := by
  unfold State.pendingReads readsUnder
  cases decode s.pending with
  | error e => simp
  | ok i =>
    cases h : commandFault i s with
    | none => simp [h]
    | some e => cases e <;> simp [h]

/-! ## The host's accesses -/

/-- Everything an access of the host to data memory can do. -/
theorem hostMemory_cases {s t u : State} {as : List Nat} (h : s.hostMemory as u = .next t) :
    t = u ∧ (∀ a ∈ as, a < s.params.memBytes) ∧ ∀ a ∈ as, s.claimed a = false := by
  unfold State.hostMemory at h
  split at h
  · cases h
  · rename_i h₁
    split at h
    · cases h
    · rename_i h₂
      injection h with h
      refine ⟨h.symm, by simpa using h₁, fun a ha => ?_⟩
      simp only [List.any_eq_true, not_exists, not_and] at h₂
      simpa using h₂ a ha

/-- Free bytes keep the canonical form. -/
theorem wf_freeBytes {m : Memory} (h : m.wf) (n : Nat) (as : List Nat) : (freeBytes n m as).wf := by
  induction as generalizing m with
  | nil => exact h
  | cons a as ih => exact ih (Memory.wf_write h _ _)

/-- A byte listed after free bytes have been placed is one of them, or was listed before. -/
theorem mem_freeBytes {n : Nat} {m : Memory} {as : List Nat} {c : Host.Cell} (h : c ∈ freeBytes n m as) :
    c.1 ∈ as ∨ c ∈ m := by
  induction as generalizing m with
  | nil => exact .inr h
  | cons a as ih =>
    rcases ih (m := m.write a (Config.freeByte n a)) h with h | h
    · exact .inl (List.mem_cons_of_mem _ h)
    · rcases Memory.mem_write h with ⟨rfl, -⟩ | h
      · exact .inl List.mem_cons_self
      · exact .inr h

/-- A byte that is none of the free ones reads as before. -/
theorem read_freeBytes_ne {n : Nat} {m : Memory} {as : List Nat} {x : Nat} (h : x ∉ as) :
    Memory.read (freeBytes n m as) x = Memory.read m x := by
  induction as generalizing m with
  | nil => rfl
  | cons a as ih =>
    simp only [List.mem_cons, not_or] at h
    exact (ih (m := m.write a (Config.freeByte n a)) h.2).trans (Memory.read_write_ne _ h.1)

end Sys2Proof.Machine
end

