-- ==== Sys2Proof/Laws/Decode.lean ====
section
/-! SUPPORT. The fields of a CMD word and the opcode map: what the decoder looks up. -/

namespace Sys2Proof

/-- A word is the concatenation of its fields (R100). -/
@[simp] theorem CmdWord.toWord_ofWord (w : Word) : (CmdWord.ofWord w).toWord = w := by
  simp only [CmdWord.toWord, CmdWord.ofWord]
  ext i hi
  simp only [BitVec.getElem_append, BitVec.getElem_extractLsb']
  split_ifs <;> rw [← BitVec.getLsbD_eq_getElem] <;> congr 1 <;> omega

/-- The fields of a word made of fields are those fields (R100). -/
@[simp] theorem CmdWord.ofWord_toWord (c : CmdWord) : CmdWord.ofWord c.toWord = c := by
  obtain ⟨r, p, o⟩ := c
  simp only [CmdWord.toWord, CmdWord.ofWord, CmdWord.mk.injEq]
  refine ⟨?_, ?_, ?_⟩ <;> ext i hi <;> simp only [BitVec.getElem_extractLsb', BitVec.getLsbD_append] <;> split_ifs <;>
    first | omega | (rw [← BitVec.getLsbD_eq_getElem]; congr 1; omega)

/-- Every row of the opcode map holds the fields of its command. -/
theorem opcodeMap_fields : ∀ row ∈ opcodeMap, row.1 = row.2.2.fields.opc ∧ row.2.1 = row.2.2.fields.plane := by decide

/-- Looking up a command's own fields gives that command. -/
theorem lookupOpcode_fields (i : Instr) : lookupOpcode i.fields.opc i.fields.plane = .ok i := by cases i <;> rfl

/-- What the lookup answers is a command with those fields. -/
theorem fields_of_lookupOpcode {o : BitVec 8} {p : BitVec 2} {i : Instr} (h : lookupOpcode o p = .ok i) :
    o = i.fields.opc ∧ p = i.fields.plane := by
  unfold lookupOpcode at h
  split at h
  · rename_i row hrow
    have hm := opcodeMap_fields row (List.mem_of_find?_eq_some hrow)
    have hp := List.find?_some hrow
    simp only [Bool.and_eq_true, beq_iff_eq] at hp
    injection h with h
    subst h
    exact ⟨hp.1.symm.trans hm.1, hp.2.symm.trans hm.2⟩
  · split at h <;> cases h

/-- The RSV field of every command is zero (R104). -/
theorem fields_rsv (i : Instr) : i.fields.rsv = 0 := by cases i <;> rfl

end Sys2Proof
end

