-- ==== Sys2Proof/Laws/Operands.lean ====
section
/-! SUPPORT. What each configuration predicate and each operand check says, as a proposition. -/

namespace Sys2Proof.Machine

/-- R55, okBD. -/
theorem okBD_iff {b : Nat} : okBD b = true ↔ b = 8 ∨ (10 ≤ b ∧ b ≤ 14) := by
  unfold okBD
  rw [Bool.or_eq_true, beq_iff_eq, Bool.and_eq_true, decide_eq_true_iff, decide_eq_true_iff]

/-- R125, the size of a block. -/
theorem sizeOk_iff {w h : Nat} : sizeOk w h = true ↔ 1 ≤ w ∧ w ≤ 128 ∧ 1 ≤ h ∧ h ≤ 128 := by
  unfold sizeOk
  rw [Bool.and_eq_true, Bool.and_eq_true, Bool.and_eq_true, decide_eq_true_iff, decide_eq_true_iff, decide_eq_true_iff,
    decide_eq_true_iff]
  simp only [Config.maxBlk, and_assoc]

theorem hasChroma_iff {s : State} : s.hasChroma = true ↔ s.chromaFmt ≠ 0 := by simp [State.hasChroma]

/-- R55, cfgPic. -/
theorem cfgPic_iff {s : State} :
    s.cfgPic = true ↔ 4 ≤ s.picW ∧ 4 ≤ s.picH ∧ s.picW % 4 = 0 ∧ s.picH % 4 = 0 ∧ 2 ≤ s.log2Ctu ∧ s.log2Ctu ≤ 7 ∧
      s.log2MinCu = 2 := by
  simp [State.cfgPic, and_assoc]

/-- R55, cfgBlk. -/
theorem cfgBlk_iff {s : State} :
    s.cfgBlk = true ↔ s.cfgPic = true ∧ okBD s.bitDepthY = true ∧ (s.chromaFmt ≠ 0 → okBD s.bitDepthC = true) := by
  by_cases h : s.chromaFmt = 0 <;> simp [State.cfgBlk, State.cfgLuma, State.hasChroma, h, and_assoc]

/-- R55, cfgDF. -/
theorem cfgDF_iff {s : State} :
    s.cfgDF = true ↔ s.cfgBlk = true ∧ s.picW ≤ s.params.maxPicW ∧ s.picH ≤ s.params.maxPicH := by
  simp [State.cfgDF, and_assoc]

/-- R125, the block of MC_MV_CLIP and MC_BLOCK. -/
theorem blockInPicture_iff {s : State} :
    s.blockInPicture = true ↔
      (1 ≤ s.count 8 ∧ s.count 8 ≤ 128 ∧ 1 ≤ s.count 9 ∧ s.count 9 ≤ 128) ∧ 0 ≤ s.s32 4 ∧ 0 ≤ s.s32 5 ∧
        s.s32 4 + s.count 8 ≤ s.picW ∧ s.s32 5 + s.count 9 ≤ s.picH := by
  unfold State.blockInPicture
  simp only [Bool.and_eq_true, decide_eq_true_iff, sizeOk_iff, and_assoc]
  rfl

/-- R125, the CU of DF_CU_HOR and DF_CU_VER. -/
theorem cuGeometry_iff {s : State} :
    s.cuGeometry = true ↔
      0 ≤ s.s32 4 ∧ 0 ≤ s.s32 5 ∧ s.s32 4 % 4 = 0 ∧ s.s32 5 % 4 = 0 ∧ s.count 8 % 4 = 0 ∧ s.count 9 % 4 = 0 ∧
        4 ≤ s.count 8 ∧ s.count 8 ≤ s.maxCu ∧ 4 ≤ s.count 9 ∧ s.count 9 ≤ s.maxCu ∧
        s.s32 4 + s.count 8 ≤ s.picW ∧ s.s32 5 + s.count 9 ≤ s.picH := by
  unfold State.cuGeometry
  simp only [Bool.and_eq_true, beq_iff_eq, decide_eq_true_iff, and_assoc]
  rfl

/-- R125, the bases of DF_CU_HOR and DF_CU_VER. -/
theorem cuBasesEven_iff {s : State} :
    s.cuBasesEven = true ↔
      zext32 s.mapBase % 2 = 0 ∧ zext32 s.picYBase % 2 = 0 ∧
        (s.chromaFmt ≠ 0 → zext32 s.picCbBase % 2 = 0 ∧ zext32 s.picCrBase % 2 = 0) := by
  by_cases h : s.chromaFmt = 0 <;> simp [State.cuBasesEven, State.hasChroma, h, even_iff, and_assoc]

/-- R210: the CU's place in min blocks. -/
theorem cuCol_cuRow {s : State} (h : s.cuGeometry = true) :
    4 * (s.cuCol : Int) = s.blockOperands.x ∧ 4 * (s.cuRow : Int) = s.blockOperands.y ∧
      4 * s.cuCols = s.blockOperands.w ∧ 4 * s.cuRows = s.blockOperands.h := by
  have h := cuGeometry_iff.1 h
  simp only [State.cuCol, State.cuRow, State.cuCols, State.cuRows, State.blockOperands, asr]
  norm_num
  omega

/-- An ARG read as `u32` (R105) is not negative. -/
theorem u32_nonneg (s : State) (i : Fin 32) : 0 ≤ s.u32 i := by simp [State.u32, zext32]

theorem u32_lt (s : State) (i : Fin 32) : s.u32 i < 2 ^ 32 := by
  have := (s.args[i]).isLt
  simp only [State.u32, zext32]
  omega

end Sys2Proof.Machine
end

