-- ==== Sys2Proof/Laws/PerInstr.lean ====
section
/-! SUPPORT. The families of statements made command by command. -/

namespace Sys2Proof.Laws

/-- A command's word is legal (R103), and the decoder reads it as that command (R104). -/
def RoundTrip.Statement (i : Instr) : Prop := i.fields.wf = true ∧ decode (encode i) = .ok i

/-- The round trip, from the lookup of the command's own fields. -/
theorem roundTrip_of_wf (i : Instr) (h : i.fields.wf = true) : RoundTrip.Statement i :=
  ⟨h, by simp [decode, encode, fields_rsv, lookupOpcode_fields]⟩

theorem RoundTrip.nop : RoundTrip.Statement .nop := roundTrip_of_wf _ rfl
theorem RoundTrip.mcPredLuma : RoundTrip.Statement .mcPredLuma := roundTrip_of_wf _ rfl
theorem RoundTrip.mcPredChroma : RoundTrip.Statement .mcPredChroma := roundTrip_of_wf _ rfl
theorem RoundTrip.mcBiAvg : RoundTrip.Statement .mcBiAvg := roundTrip_of_wf _ rfl
theorem RoundTrip.mcMvClip : RoundTrip.Statement .mcMvClip := roundTrip_of_wf _ rfl
theorem RoundTrip.mcBlock : RoundTrip.Statement .mcBlock := roundTrip_of_wf _ rfl
theorem RoundTrip.dfBs : RoundTrip.Statement .dfBs := roundTrip_of_wf _ rfl
theorem RoundTrip.dfEdgeLuma : RoundTrip.Statement .dfEdgeLuma := roundTrip_of_wf _ rfl
theorem RoundTrip.dfEdgeChroma : RoundTrip.Statement .dfEdgeChroma := roundTrip_of_wf _ rfl
theorem RoundTrip.dfQpcCb : RoundTrip.Statement .dfQpcCb := roundTrip_of_wf _ rfl
theorem RoundTrip.dfQpcCr : RoundTrip.Statement .dfQpcCr := roundTrip_of_wf _ rfl
theorem RoundTrip.dfPassBegin : RoundTrip.Statement .dfPassBegin := roundTrip_of_wf _ rfl
theorem RoundTrip.dfCuHor : RoundTrip.Statement .dfCuHor := roundTrip_of_wf _ rfl
theorem RoundTrip.dfCuVer : RoundTrip.Statement .dfCuVer := roundTrip_of_wf _ rfl

end Sys2Proof.Laws
end

