-- ==== Sys2Proof/Tests/Slice0.lean ====
section
/-! SUPPORT. Tests of the model against the vectors of 95_test_vectors.md (named T, V and P there), words written out from
30_encoding.md, and for every statement a witness that its hypotheses can be met. The parameters are those of `Config.sample`. -/

open Sys2Proof Sys2Proof.Machine

namespace Sys2Proof.Tests

/-! ## Building small states -/

/-- The reset state with the sample parameters and a data memory of zeros. -/
def base : State := State.resetWith Config.sample []

/-- Some ARGs set. -/
def withArgs (as : List (Fin 32 × Nat)) (s : State) : State :=
  { s with args := as.foldl (fun v a => v.set a.1 (BitVec.ofNat 32 a.2)) s.args }

/-- A plane's samples (x, y) in a window, by a formula (the conventions of 95_test_vectors.md). -/
def window (b stride x0 y0 w h : Nat) (f : Nat → Nat → Nat) : List (Int × Int) :=
  (raster w h).map fun p => (b + 2 * ((y0 + p.1) * stride + (x0 + p.2) : Nat), f (x0 + p.2) (y0 + p.1))

/-- Some 16-bit values stored in data memory. -/
def withMem (ws : List (Int × Int)) (s : State) : State := { s with mem := s.mem.writeAll ws }

/-- The state after the one step that runs a command word, where that step gives one. -/
def ran (w : Nat) (s : State) : Option State :=
  match step (s.withFetchWord 32 w) with
  | .next t => some t
  | _ => none

/-- STATUS after the command `w`. -/
def statusAfter (w : Nat) (s : State) : Option Nat := (ran w s).map fun t => t.status.word.toNat

/-- Samples of memory after the command `w`. -/
def memAfter (w : Nat) (s : State) (as : List Int) : Option (List Int) := (ran w s).map fun t => as.map t.mem.read16

/-- Consecutive samples of a row. -/
def row (a n : Nat) : List Int := (List.range n).map fun i : Nat => (a : Int) + 2 * i

/-- The configuration of most vectors: 4:2:0, bit depths 8, MAXCU 16. -/
def cfg420 (s : State) : State := { s with cfg0 := 0x00024188 }

/-! ## Well-formedness -/

theorem test_wf_refuses_unknown_opcode : CmdWord.wf ⟨0, 0, 0x17⟩ = false ∧ CmdWord.wf ⟨0, 0, 0x06⟩ = false := by decide

theorem test_wf_refuses_reserved_bits : CmdWord.wf ⟨1, 0, 0x15⟩ = false := by decide

theorem test_wf_refuses_bad_plane :
    CmdWord.wf ⟨0, 1, 0x00⟩ = false ∧ CmdWord.wf ⟨0, 0, 0x13⟩ = false ∧ CmdWord.wf ⟨0, 3, 0x13⟩ = false := by decide

theorem test_wf_accepts : CmdWord.wf ⟨0, 2, 0x13⟩ = true ∧ CmdWord.wf ⟨0, 0, 0x16⟩ = true := by decide

theorem test_sample_parameters_wf : Config.sample.wf = true := by decide

/-! ## Decoding: every word of R104 written out -/

theorem test_decode_control : decode 0x00000000 = .ok .nop := by decide

theorem test_decode_mc :
    decode 0b00000000000000000000000000000001 = .ok .mcPredLuma ∧
    decode 0b00000000000000000000000000000010 = .ok .mcPredChroma ∧
    decode 0b00000000000000000000000000000011 = .ok .mcBiAvg ∧
    decode 0b00000000000000000000000000000100 = .ok .mcMvClip ∧
    decode 0b00000000000000000000000000000101 = .ok .mcBlock := by decide

theorem test_decode_df :
    decode 0b00000000000000000000000000010000 = .ok .dfBs ∧
    decode 0b00000000000000000000000000010001 = .ok .dfEdgeLuma ∧
    decode 0b00000000000000000000000000010010 = .ok .dfEdgeChroma ∧
    decode 0b00000000000000000000000100010011 = .ok .dfQpcCb ∧
    decode 0b00000000000000000000001000010011 = .ok .dfQpcCr ∧
    decode 0b00000000000000000000000000010100 = .ok .dfPassBegin ∧
    decode 0b00000000000000000000000000010101 = .ok .dfCuHor ∧
    decode 0b00000000000000000000000000010110 = .ok .dfCuVer := by decide

/-- The illegal words of V70 and V91. -/
theorem test_decode_illegal :
    decode 0x00000313 = .error .badPlane ∧ decode 0x00000100 = .error .badPlane ∧ decode 0x00000013 = .error .badPlane ∧
    decode 0x000000FF = .error .unknownOpcode ∧ decode 0x00000415 = .error .reservedBits := by decide

/-! ## Shared arithmetic -/

/-- V1. -/
theorem test_luma_split :
    [lumaSplit 0 0, lumaSplit 0 3, lumaSplit 0 4, lumaSplit 0 (-1), lumaSplit 10 (-1), lumaSplit 0 (-4), lumaSplit 0 (-5),
      lumaSplit 5 7, lumaSplit 3 (-6)] =
    [(0, 0), (0, 12), (1, 0), (-1, 12), (9, 12), (-1, 0), (-2, 12), (6, 12), (1, 8)] := by decide

/-- V2. -/
theorem test_chroma_split :
    [chromaSplit 1 5 (-1), chromaSplit 0 5 (-1), chromaSplit 1 0 1, chromaSplit 1 0 8, chromaSplit 0 0 1, chromaSplit 1 0 (-1),
      chromaSplit 1 2 3, chromaSplit 0 2 3] =
    [(4, 28), (4, 24), (0, 4), (1, 0), (0, 8), (-1, 28), (2, 12), (2, 24)] := by decide

/-- V3. -/
theorem test_two_pass_shifts :
    [8, 10, 11, 12, 13, 14].map (fun bd => (firstShift bd, firstOffset bd, secondShift bd, secondOffset bd)) =
    [(0, 0, 12, 2048), (2, 2, 10, 512), (3, 4, 9, 256), (4, 8, 8, 128), (4, 8, 8, 128), (4, 8, 8, 128)] := by decide

/-- V60, the luma filter. -/
theorem test_filter_luma :
    [filterLuma ⟨10, 10, 50, 50⟩ 20 8, filterLuma ⟨0, 3, 0, 0⟩ 20 8, filterLuma ⟨0, 0, 100, 100⟩ 20 8,
      filterLuma ⟨255, 255, 0, 0⟩ 60 8, filterLuma ⟨1023, 1023, 0, 0⟩ 200 10, filterLuma ⟨0, 0, 0, 9⟩ 20 8,
      filterLuma ⟨300, 10, 50, 50⟩ 0 8] =
    [⟨17, 25, 35, 43⟩, ⟨0, 2, 1, 0⟩, ⟨1, 3, 97, 99⟩, ⟨243, 230, 25, 12⟩, ⟨1015, 1006, 17, 8⟩, ⟨0, 0, 1, 9⟩,
      ⟨255, 10, 50, 50⟩] := by decide

/-- V60, the chroma filter. -/
theorem test_filter_chroma :
    [filterChroma ⟨50, 50, 10, 10⟩ 20 8, filterChroma ⟨0, 0, 60, 60⟩ 20 8, filterChroma ⟨0, 0, 30, 30⟩ 10 8,
      filterChroma ⟨0, 0, 0, 7⟩ 20 8, filterChroma ⟨10, 10, 50, 50⟩ 0 8] =
    [(35, 25), (18, 42), (9, 21), (0, 0), (10, 50)] := by decide

/-- The REFPOC table of V50. -/
def bsState : State :=
  { base with refPoc0 := (base.refPoc0.set 0 8).set 1 4, refPoc1 := (base.refPoc1.set 0 8).set 1 12 }

/-- A record of V50. -/
def rec' (intra cbf : Bool) (r0 r1 : Int) (m0 m1 : Mv) : Meta := ⟨intra, cbf, 0, r0, r1, m0, m1⟩

/-- V50, all rows. -/
theorem test_boundary_strength :
    [bsState.bs (rec' true false 0 (-1) ⟨0, 0⟩ ⟨0, 0⟩) (rec' false false 0 (-1) ⟨0, 0⟩ ⟨0, 0⟩),
      bsState.bs (rec' false false 0 (-1) ⟨0, 0⟩ ⟨0, 0⟩) (rec' false true 0 (-1) ⟨0, 0⟩ ⟨0, 0⟩),
      bsState.bs (rec' false false 0 (-1) ⟨0, 0⟩ ⟨0, 0⟩) (rec' false false 0 (-1) ⟨3, -3⟩ ⟨0, 0⟩),
      bsState.bs (rec' false false 0 (-1) ⟨0, 0⟩ ⟨0, 0⟩) (rec' false false 0 (-1) ⟨4, 0⟩ ⟨0, 0⟩),
      bsState.bs (rec' false false 0 (-1) ⟨0, 0⟩ ⟨0, 0⟩) (rec' false false 1 (-1) ⟨0, 0⟩ ⟨0, 0⟩),
      bsState.bs (rec' false false 0 (-1) ⟨1, 1⟩ ⟨0, 0⟩) (rec' false false (-1) 0 ⟨0, 0⟩ ⟨0, 0⟩),
      bsState.bs (rec' false false 0 1 ⟨0, 0⟩ ⟨0, 0⟩) (rec' false false 0 1 ⟨0, 0⟩ ⟨0, -4⟩),
      bsState.bs (rec' false false 0 0 ⟨0, 0⟩ ⟨8, 0⟩) (rec' false false 0 0 ⟨8, 0⟩ ⟨0, 0⟩),
      bsState.bs (rec' false false (-1) (-1) ⟨0, 0⟩ ⟨0, 0⟩) (rec' false false (-1) (-1) ⟨0, 0⟩ ⟨0, 0⟩),
      bsState.bs (rec' true false 16 (-1) ⟨0, 0⟩ ⟨0, 0⟩) (rec' false false 0 (-1) ⟨0, 0⟩ ⟨0, 0⟩),
      bsState.bs (rec' false false 16 (-1) ⟨0, 0⟩ ⟨0, 0⟩) (rec' false false 0 (-1) ⟨0, 0⟩ ⟨0, 0⟩),
      bsState.bs (rec' false false 0 (-1) ⟨0, 0⟩ ⟨0, 0⟩) (rec' false false (-1) (-1) ⟨0, 0⟩ ⟨0, 0⟩)] =
    [some 0, some 1, some 3, some 2, some 2, some 3, some 2, some 3, some 3, some 0, none, some 2] := by decide

/-! ## Commands, one step each -/

/-- V90, step 5. -/
theorem test_nop : statusAfter 0x00 base = some 0x00000002 := by decide

/-- The operands of a prediction at 0x1000 to 0x2000 with strides 32 and 8. -/
def predState (cfg0 x y mvx mvy w h : Nat) (ws : List (Int × Int)) : State :=
  withMem ws (withArgs [(0, 0x1000), (1, 32), (2, 0x2000), (3, 8), (4, x), (5, y), (6, mvx), (7, mvy), (8, w), (9, h)]
    { base with cfg0 := BitVec.ofNat 32 cfg0 })

/-- V12, moved 4 samples to the right: the horizontal filter, clipped at both ends. -/
theorem test_mc_pred_luma_clips :
    memAfter 0x01 (predState 0x24188 4 0 2 0 8 1 (window 0x1000 32 1 0 15 1 fun x _ => if x < 8 then 0 else 255))
      (row 0x2000 8) = some [0, 8, 0, 128, 255, 247, 255, 255] := by decide

set_option maxRecDepth 4000 in
/-- V13: the two-pass filter at bit depth 10. -/
theorem test_mc_pred_luma_two_pass :
    memAfter 0x01 (predState 0x241AA 4 4 2 2 1 1 (window 0x1000 32 1 1 8 8 fun x y => 64 * x + 32 * y))
      [0x2000] = some [432] := by decide

/-- V20. -/
theorem test_mc_pred_chroma :
    memAfter 0x02 (predState 0x24188 2 0 1 0 4 1 (window 0x1000 32 1 0 7 1 fun x _ => 8 * x)) (row 0x2000 4) =
      some [17, 25, 33, 41] := by decide

/-- V21. -/
theorem test_mc_pred_chroma_two_pass :
    memAfter 0x02 (predState 0x24188 2 2 1 3 2 2 (window 0x1000 32 1 1 5 5 fun x y => 8 * x + 4 * y))
      (row 0x2000 2 ++ row 0x2010 2) = some [27, 35, 31, 39] := by decide

/-- V30. -/
theorem test_mc_bi_avg :
    memAfter 0x03 (withMem
        [(0x1000, 0), (0x1002, 254), (0x1004, 19), (0x1006, 65535), (0x1100, 255), (0x1102, 255), (0x1104, 100), (0x1106, 65534)]
        (withArgs [(0, 0x1000), (15, 0x1100), (2, 0x1200), (8, 4), (9, 1)] base)) (row 0x1200 4) =
      some [128, 255, 60, 65535] := by decide

/-- V40. -/
theorem test_mc_mv_clip :
    ((ran 0x04 (withArgs [(6, 2 ^ 32 - 200), (7, 3), (8, 8), (9, 8)] { cfg420 base with cfg1 := 0x00400040 })).map
      fun t => (t.results[0], t.results[1])) = some (0xFFFFFFCC, 3) := by decide

/-- V43. -/
theorem test_mc_mv_clip_geometry :
    statusAfter 0x04 (withArgs [(4, 60), (8, 8), (9, 8)] { cfg420 base with cfg1 := 0x00400040 }) = some 0x00040306 := by decide

/-- The operands and reference planes of P4. -/
def blockState : State :=
  withMem (window 0x4000 16 2 0 4 4 (fun x y => 10 * y + x) ++ window 0x4200 16 0 2 4 4 (fun x y => 100 + x + y) ++
      window 0x4400 8 1 0 2 2 (fun x _ => 50 + x) ++ window 0x4480 8 1 0 2 2 (fun _ y => 60 + y) ++
      window 0x4500 8 0 1 2 2 (fun _ _ => 70) ++ window 0x4580 8 0 1 2 2 (fun x _ => 80 + x))
    (withArgs ([(0, 0x4000), (17, 0x4400), (18, 0x4480), (19, 0x4200), (20, 0x4500), (21, 0x4580), (1, 16), (22, 8), (2, 0x5000),
        (3, 4), (23, 0x5020), (24, 0x5028), (25, 2)] ++
        [(4, 0), (5, 0), (8, 4), (9, 4), (10, 3), (6, 8), (7, 0), (13, 0), (14, 8), (11, 8), (12, 4)])
      { cfg420 base with cfg1 := 0x00100010 })

/-- P4: bi-prediction of every plane. -/
theorem test_mc_block :
    memAfter 0x05 blockState (row 0x5000 16 ++ row 0x5020 8) =
      some ([52, 53, 54, 55, 58, 59, 60, 61, 63, 64, 65, 66, 69, 70, 71, 72] ++ [61, 61, 61, 61, 70, 71, 71, 71]) := by decide

/-- P4's variant: the shortcut. -/
theorem test_mc_block_shortcut :
    memAfter 0x05 (withArgs [(13, 8), (14, 0), (12, 8)] blockState) (row 0x5000 4 ++ row 0x5020 8) =
      some [2, 3, 4, 5, 51, 52, 51, 52, 60, 60, 61, 61] := by decide

/-- V50, row 4, in memory: P at 0x100 and Q at 0x110. -/
def bsMem : State :=
  withMem [(0x102, 0xFF00), (0x112, 0xFF00), (0x114, 4)] (withArgs [(0, 0x100), (1, 0x110)] bsState)

theorem test_df_bs : ((ran 0x10 bsMem).map fun t => (t.results[0], t.status.word)) = some (2, 0x00000002) := by decide

/-- V50, row 11. -/
theorem test_df_bs_table_range :
    statusAfter 0x10 (withMem [(0x102, 0xFF10)] bsMem) = some 0x00100706 := by decide

/-- Rows 0 and 1 of P2, at 0x3000. -/
def edgeState : State :=
  withMem [(0x3004, 10), (0x3006, 10), (0x3008, 50), (0x300A, 50), (0x3016, 3)]
    (withArgs [(0, 0x3008), (1, 1), (2, 8), (3, 2), (4, 20)] (cfg420 base))

/-- P2. -/
theorem test_df_edge_luma : memAfter 0x11 edgeState (row 0x3004 4 ++ row 0x3014 4) =
    some [17, 25, 35, 43, 0, 2, 1, 0] := by decide

/-- V61. -/
theorem test_df_edge_luma_one_sample :
    memAfter 0x11 (withMem [(0x3008, 300)] (withArgs [(0, 0x3008), (3, 1), (4, 20)] (cfg420 base))) [0x3008] = some [255] := by
  decide

/-- P2. -/
theorem test_df_edge_chroma : memAfter 0x12 edgeState (row 0x3004 4 ++ row 0x3014 4) =
    some [10, 25, 35, 50, 0, 2, 1, 0] := by decide

/-- V62, with DF_EDGE_CHROMA's opcode. -/
theorem test_df_edge_chroma_count : statusAfter 0x12 (withArgs [(3, 65)] edgeState) = some 0x00120306 := by decide

/-- V70: QPOFF[Cb] = -3 keeps QP 0 at 0. -/
theorem test_df_qpc_cb :
    ((ran 0x113 { cfg420 base with cfg2 := 0x000000FD }).map fun t => t.results[1]) = some 0 := by decide

/-- V70: bit depth 10, QPY -20. -/
theorem test_df_qpc_cr :
    ((ran 0x213 (withArgs [(0, 2 ^ 32 - 20)] { base with cfg0 := 0x000241A8 })).map fun t => t.results[1]) =
      some 0xFFFFFFF4 := by decide

theorem test_df_pass_begin : ((ran 0x14 { base with coded := [(0, 1), (3, 2)] }).map State.coded) = some [] := by decide

/-- The lower-left CU of P3, its upper neighbour marked, with the samples of its edge. -/
def cuState : State :=
  withMem (window 0x7000 8 0 2 4 2 (fun _ _ => 40) ++ window 0x7000 8 0 4 4 2 (fun _ _ => 50) ++
      [(0x6000, 0x1E02), (0x6002, 0xFF00), (0x6020, 0x1E02), (0x6022, 0xFF00)])
    (withArgs [(4, 0), (5, 4), (8, 4), (9, 4)]
      { base with cfg0 := 0x00023008, cfg1 := 0x00080008, mapBase := 0x6000, picYBase := 0x7000, picYStride := 8,
                  coded := [(0, 0)] })

/-- P3. -/
theorem test_df_cu_hor :
    ((ran 0x15 cuState).map fun t => ([0x7020, 0x7030, 0x7040, 0x7056].map t.mem.read16, t.coded)) =
      some ([41, 43, 47, 49], [(0, 0), (1, 0)]) := by decide

/-- V80. -/
theorem test_df_cu_hor_unmarked :
    ((ran 0x15 { cuState with coded := [] }).map fun t => (t.mem, t.coded)) = some (cuState.mem, [(1, 0)]) := by decide

/-- The upper-right CU of P3, its left neighbour marked, with the samples of its edge. -/
def cuVerState : State :=
  withMem (window 0x7000 8 2 0 2 4 (fun _ _ => 40) ++ window 0x7000 8 4 0 2 4 (fun _ _ => 60) ++ [(0x6010, 0x1E02), (0x6012, 0xFF00)])
    (withArgs [(4, 4), (5, 0)] { cuState with mem := [] })
  |> withMem [(0x6000, 0x1E02), (0x6002, 0xFF00)]

/-- P3, whose end state has 40 43 | 57 60 and, from a step of 40 | 60 alone, d = 7 with cl = 7 over ST = 8. -/
theorem test_df_cu_ver :
    memAfter 0x16 cuVerState (row 0x7004 4) = some [43, 47, 53, 57] := by decide

/-- V82. -/
theorem test_df_cu_ver_geometry : statusAfter 0x16 (withArgs [(4, 2)] cuVerState) = some 0x00160306 := by decide

/-! ## Protocol -/

/-- A state with a command word accepted and the engine's turn next. -/
def loaded (w : Nat) (s : State) : State := s.withFetchWord 32 w

/-- V90, step 2; V91. -/
theorem test_status_of_faults :
    [statusAfter 0x01 base, statusAfter 0x100 base, statusAfter 0xFF base, statusAfter 0x415 base] =
      [some 0x00010206, some 0x00000106, some 0x00FF0106, some 0x00150106] := by decide

/-- V90, steps 3 and 4: a command written while ERR = 1 is ignored, and the host clears the fault. -/
theorem test_halted_and_cleared :
    ((ran 0x01 base).map fun t =>
      ((t.writeReg .cmd 0).status.word, (t.writeReg .status 0xE).status.word)) = some (0x0001020E, 0) := by decide

/-- V93. -/
theorem test_irq :
    ((ran 0x00 { base with irqEn := true }).map fun t => (t.irq, (t.writeReg .status 2).irq)) = some (true, false) ∧
    ((ran 0x01 { base with irqEn := true }).map fun t => ((t.writeReg .status 2).irq, (t.writeReg .status 6).irq)) =
      some (true, false) := by decide

/-- V94. -/
theorem test_write_while_busy :
    ((base.withFetchWord 32 0).writeReg .cfg1 7).cfg1 = 0 ∧
    ((base.withFetchWord 32 0).writeReg .cfg1 7).status.wign = true := by decide

/-- m16 (R130), at the last two bytes of data memory and one beyond. -/
theorem test_host_m16 :
    (match step { base with agenda := [.memWrite16 0xFFFE 0x1234] } with
      | .next t => [t.mem.read 0xFFFE, t.mem.read 0xFFFF] == [0x34, 0x12]
      | _ => false) = true ∧
    (match step { base with agenda := [.memWrite16 0xFFFF 0x1234] } with
      | .fault .noSuchAddress => true
      | _ => false) = true := by decide

/-- R84, R195: a DF_BS about to fault E_TABLE_RANGE reads its records, so the host must not write them while BUSY = 1. -/
theorem test_host_keeps_off_records :
    (match step { loaded 0x10 (withMem [(0x102, 0xFF10)] bsMem) with agenda := [.memWrite 0x102 0] } with
      | .refused .hostMemoryDuty => true
      | _ => false) = true ∧
    (match step { loaded 0x10 (withMem [(0x102, 0xFF10)] bsMem) with agenda := [.memWrite 0x11C 0] } with
      | .next _ => true
      | _ => false) = true := by decide

/-! ## Witnesses: for every statement with hypotheses, states and operands that meet them, at the boundaries of their ranges -/

theorem witness_IllegalWords : ¬∃ i, decode (loaded 0x17 base).pending = .ok i := by
  have h : decode (loaded 0x17 base).pending = .error .unknownOpcode := by decide
  rw [h]; rintro ⟨i, hi⟩; cases hi

theorem witness_StepRunsTheDecodedCommand :
    (loaded 0x14 base).status.busy = true ∧ decode (loaded 0x14 base).pending = .ok .dfPassBegin ∧
    (loaded 0x14 base).agenda = [] ∧ { loaded 0x14 base with agenda := [.engine, .reset] }.agenda = .engine :: [.reset] := by
  decide

theorem witness_StepMakesTheNextMove :
    (0x004 : BitVec 12).toNat % 4 = 0 ∧ (0xFFC : BitVec 12).toNat % 4 = 0 ∧ (2 : Nat) ≠ 4 ∧ (0x006 : BitVec 12).toNat % 4 ≠ 0 ∧
    base.status.busy = false ∧ base.agenda = [] := by decide

theorem witness_WindowOffsets :
    [0x034, 0x03C, 0x050, 0x07C, 0x180, 0xFFC].all (fun n => regAt (BitVec.ofNat 12 n) == .reserved && n % 4 == 0) = true ∧
    regAt 0x030 = .picCStride ∧ regAt 0x040 = .result 0 ∧ regAt 0x04C = .result 3 ∧ regAt 0x080 = .arg 0 ∧
    regAt 0x0FC = .arg 31 ∧ regAt 0x100 = .refPoc0 0 ∧ regAt 0x13C = .refPoc0 15 ∧ regAt 0x140 = .refPoc1 0 ∧
    regAt 0x17C = .refPoc1 15 := by decide

theorem witness_RegisterWritesReadBack :
    base.status.busy = false ∧ (base.writeReg (.arg 31) 5).readReg (.arg 31) = 5 ∧
    (base.writeReg .cfg0 0xFFFFFFFF).readReg .cfg0 = 0x000FF3FF ∧ (base.writeReg (.result 3) 5) = base := by decide

/-- The invariant can be met, by a state with parameters that meet R10 to R12. -/
theorem base_inv : base.Inv where
  memCanonical := by decide
  memExists := by decide
  paramsWf := test_sample_parameters_wf
  noErrNoCode := by decide
  errCodeKnown := by decide
  busyClear := by decide
  cfg0Reserved := by decide
  cfg2Reserved := by decide
  codedCanonical := by decide
  codedExists := by decide

theorem witness_ReservedBitsReadZeroAndIgnoreWrites : base.Inv := base_inv

/-- The base state halted by E_CONFIG. -/
def halted : State := { base with status := ⟨false, true, true, false, 0x02, 0x01⟩ }

theorem witness_CmdWriteHasThreeEffects :
    (loaded 0 base).status.busy = true ∧ (halted.status.busy = false ∧ halted.status.err = true) ∧
    (base.status.busy = false ∧ base.status.err = false) := by decide

theorem witness_WritesWhileBusyAreIgnored : (loaded 0 base).status.busy = true := by decide

/-- The operands of a 2 x 2 average. -/
def biState : State :=
  withMem [(0x1000, 7), (0x1100, 8)]
    (withArgs [(0, 0x1000), (1, 2), (15, 0x1100), (16, 2), (2, 0x1200), (3, 2), (8, 2), (9, 2)] base)

/-- One faulting command for each code a check raises. -/
theorem witness_FaultWritesOnlyStatus :
    commandFault .mcPredLuma base = some .config ∧ commandFault .mcBiAvg base = some .geometry ∧
    commandFault .mcBlock (withArgs [(10, 0)] blockState) = some .noRef ∧
    commandFault .mcBiAvg (withArgs [(15, 0x1101)] biState) = some .misaligned ∧
    commandFault .mcBiAvg (withArgs [(2, 0xFFFA)] biState) = some .memRange ∧
    commandFault .dfBs (withMem [(0x102, 0xFF10)] bsMem) = some .tableRange := by decide

theorem witness_FaultHaltsUntilItIsCleared :
    halted.Halted ∧ (match step { halted with agenda := [.regWrite 4 0x004 0] } with
      | .next t => t.status.err && t.status.wign
      | _ => false) = true ∧ (4 : Word).getLsbD 2 = true := by
  refine ⟨⟨by decide, by decide⟩, by decide, by decide⟩

theorem witness_ResetInOneStep :
    base.status.busy = false ∧ (loaded 3 biState).status.busy = true ∧
    (loaded 3 biState).pendingWrites = [0x1200, 0x1201, 0x1202, 0x1203, 0x1204, 0x1205, 0x1206, 0x1207] := by decide

/-- Data memory has at least two bytes, whatever the parameters. -/
theorem witness_ResetValues : 1 < State.reset.params.memBytes := by
  have h : Config.platform.wf = true := by
    unfold Config.platform; split
    · assumption
    · exact test_sample_parameters_wf
  simp only [Config.Params.wf, Bool.and_eq_true, decide_eq_true_eq] at h
  exact h.1.1.1.1.1.1

theorem witness_CommandsComplete :
    commandFault .nop base = none ∧ commandFault .mcBiAvg biState = none ∧ commandFault .mcBlock blockState = none := by decide

theorem witness_ResultsAndCoded :
    (ran 0x15 cuState).isSome = true ∧ cuState.coded.get 0 0 = true ∧ commandFault .mcBiAvg base ≠ none := by decide

theorem witness_CommandsWriteOnlyTheirWriteSet :
    (ran 0x03 biState).isSome = true ∧ Spec.Writes .mcBiAvg biState 0x1206 ∧
    ∀ w, Spec.Writes .mcBiAvg biState w → ((0x1208 : Nat) : Int) ≠ w ∧ ((0x1208 : Nat) : Int) ≠ w + 1 := by
  refine ⟨by decide, ⟨1, 1, by decide, by decide, by decide⟩, ?_⟩
  rintro w ⟨r, c, hr, hc, rfl⟩
  have e : biState.u32 2 = 0x1200 ∧ biState.u32 3 = 2 ∧ biState.count 8 = 2 ∧ biState.count 9 = 2 := by decide
  rw [e.1, e.2.1]; rw [e.2.2.1] at hc; rw [e.2.2.2] at hr
  omega

/-- ARGs at the edges of those each command does not list, and states for each clause of MC_BLOCK in which it runs. -/
theorem witness_CommandsReadOnlyTheirArgs :
    (10 ≤ (10 : Fin 32).val) ∧ (4 ≤ (4 : Fin 32).val ∧ (7 : Fin 32).val ≤ 7) ∧ (10 ≤ (14 : Fin 32).val ∧ (14 : Fin 32).val ≤ 14) ∧
    17 ≤ (17 : Fin 32).val ∧ (3 : Fin 32).val ≤ 3 ∧ (26 ≤ (26 : Fin 32).val) ∧
    ({ blockState with cfg0 := 0x00023008 } : State).chromaFmt = 0 ∧
    commandFault .mcBlock { blockState with cfg0 := 0x00023008 } = none ∧ (20 ≤ (25 : Fin 32).val ∧ (25 : Fin 32).val ≤ 25) ∧
    (((withArgs [(10, 2)] blockState).args[10]).getLsbD 0 = false ∧ (18 : Fin 32).val ∈ [0, 6, 7, 11, 17, 18] ∧
      commandFault .mcBlock (withArgs [(10, 2)] blockState) = none) ∧
    (((withArgs [(10, 1)] blockState).args[10]).getLsbD 1 = false ∧ (21 : Fin 32).val ∈ [12, 13, 14, 19, 20, 21] ∧
      commandFault .mcBlock (withArgs [(10, 1)] blockState) = none) ∧
    ((withArgs [(13, 8), (14, 0), (12, 8)] blockState).predMode = .l0 ∧ (19 : Fin 32).val ∈ [19, 20, 21] ∧
      commandFault .mcBlock (withArgs [(13, 8), (14, 0), (12, 8), (19, 1)] blockState) = none) := by
  decide

theorem witness_McIsIndependentOfCoded : (ran 0x05 blockState).isSome = true := by decide

theorem witness_StepKeepsTheInvariant : base.Inv ∧ (match step base with | .next _ => true | _ => false) = true :=
  ⟨base_inv, by decide⟩

theorem witness_PositionSplits :
    0 ≤ 1 ∧ 1 ≤ 1 ∧ (chromaSplit 1 5 (-1)).2 = 28 ∧ (chromaSplit 0 5 (-1)).2 = 24 ∧ (cfg420 base).chromaFmt = 1 ∧
    ({ base with cfg0 := 0x00024288 } : State).chromaFmt = 2 ∧ ({ base with cfg0 := 0x00024388 } : State).chromaFmt = 3 := by
  decide

/-- A prediction at 0x1000 with stride 8: one sample, one and a half luma samples right. -/
def onePred (chroma : Bool) : Prediction := ⟨chroma, 0x1000, 8, 0, 0, 1, 1, ⟨6, 0⟩⟩

/-- Memory that is 100 at every sample it reads. -/
def flatState : State := withMem (window 0x1000 8 0 0 8 1 fun _ _ => 100) (cfg420 base)

theorem witness_predictions :
    (onePred false).chroma = false ∧ (onePred true).chroma = true ∧ 1 ≤ (onePred false).w ∧ 1 ≤ (onePred false).h := by decide

theorem witness_PredictionStaysInRange :
    (∀ a ∈ flatState.predReads { onePred false with x := 2 }, flatState.mem.read16 a ≤ 2 ^ flatState.depthOf (onePred false) - 1) ∧
    (0 : Int) ≤ 255 ∧ (255 : Int) ≤ 255 := by decide

theorem witness_FlatReferencePredictsFlat :
    flatState.params.wf = true ∧ okBD (flatState.depthOf (onePred false)) = true ∧
    (100 : Int) ≤ 2 ^ flatState.depthOf (onePred false) - 1 ∧
    (∀ a ∈ flatState.predReads { onePred false with x := 2 }, flatState.mem.read16 a = 100) ∧
    (∀ a ∈ flatState.predReads { onePred true with x := 1 }, flatState.mem.read16 a = 100) :=
  ⟨test_sample_parameters_wf, by decide, by decide, by decide, by decide⟩

theorem witness_SeparableWithinOne : okBD 8 = true ∧ okBD 10 = true ∧ okBD 14 = true ∧ okBD 9 = false := by decide

/-- The later of two stores to one address is the one that stays: in this block no two are to one address. -/
theorem distinct_two_by_two (b : Int) (r c r' c' : Nat) (hc : c < 2) (hc' : c' < 2) (h : r < r' ∨ (r = r' ∧ c < c')) :
    b + 2 * ((r' : Int) * 2 + c') ≠ b + 2 * ((r : Int) * 2 + c) := by omega

theorem witness_BiAvgStoresTheRoundedAverage :
    biState.mem.wf ∧ (1 ≤ biState.count 8 ∧ biState.count 8 ≤ 128 ∧ 1 ≤ biState.count 9 ∧ biState.count 9 ≤ 128) ∧
    (biState.u32 0 % 2 = 0 ∧ biState.u32 15 % 2 = 0 ∧ biState.u32 2 % 2 = 0) ∧
    (∀ r < biState.count 9, ∀ c < biState.count 8,
      ∀ a ∈ [biState.u32 0 + 2 * ((r : Nat) * biState.u32 1 + (c : Nat)), biState.u32 15 + 2 * ((r : Nat) * biState.u32 16 + (c : Nat)),
             biState.u32 2 + 2 * ((r : Nat) * biState.u32 3 + (c : Nat))], a + 2 ≤ biState.params.memBytes) ∧
    biState.u32 3 = 2 := by decide

/-- A prediction command of 2 x 2 samples, on whole-sample vectors. -/
def predMin : State := withArgs [(3, 2)] (predState 0x24188 0 0 0 0 2 2 [(0x1000, 5)])

/-- A window with whole-sample vectors lies between the corners of its block. -/
theorem window_between {s : State} {q : Prediction} {a : Int} (hx : q.mv.x = 0) (hy : q.mv.y = 0) (hs : 0 ≤ q.refStride)
    (h : Spec.Window s q a) :
    q.refBase + 2 * (q.y * q.refStride + q.x) ≤ a ∧
      a ≤ q.refBase + 2 * ((q.y + q.h - 1) * q.refStride + (q.x + q.w - 1)) := by
  obtain ⟨x, y, hxx, hyy, rfl⟩ := h
  have e : ∀ z : Int, 32 * z % 32 = 0 ∧ 32 * z / 32 = z := fun z => by omega
  simp only [hx, hy, zero_mul, add_zero, Int.zero_ediv, Int.zero_emod, mul_zero, (e _).1, (e _).2, ite_self, if_true] at hxx hyy
  have h₁ := mul_le_mul_of_nonneg_right hyy.1 hs
  have h₂ := mul_le_mul_of_nonneg_right hyy.2 hs
  omega

/-- The addresses of a block lie between its base and the end of its last row. -/
theorem block_between {s : State} {b stride a : Int} (hs : 0 ≤ stride) (h : Spec.Block s b stride a) :
    b ≤ a ∧ a ≤ b + 2 * (s.count 9 * stride + s.count 8) := by
  obtain ⟨r, c, hr, hc, rfl⟩ := h
  have h₁ : (r : Int) * stride ≤ s.count 9 * stride := mul_le_mul_of_nonneg_right (by omega) hs
  have h₂ : 0 ≤ (r : Int) * stride := mul_nonneg (by omega) hs
  omega

theorem predMin_inMemory (i : Instr) (hi : i = .mcPredLuma ∨ i = .mcPredChroma) : Spec.AllInMemory i predMin := by
  have e : predMin.params.memBytes = 0x10000 ∧ predMin.u32 2 = 0x2000 ∧ predMin.u32 3 = 2 ∧ predMin.count 8 = 2 ∧
      predMin.count 9 = 2 := by decide
  have p : ∀ c, Spec.predCommand predMin c = ⟨c, 0x1000, 32, 0, 0, 2, 2, ⟨0, 0⟩⟩ := by decide
  intro a ha
  have hr : (∃ c, Spec.Window predMin (Spec.predCommand predMin c) a) ∨ Spec.Block predMin (predMin.u32 2) (predMin.u32 3) a := by
    rcases hi with rfl | rfl
    · exact ha.imp (fun h => ⟨false, h⟩) id
    · exact ha.imp (fun h => ⟨true, h⟩) id
  unfold Spec.InMemory
  rw [e.1]
  rcases hr with ⟨c, h⟩ | h
  · rw [p] at h
    have := window_between (q := ⟨c, 0x1000, 32, 0, 0, 2, 2, ⟨0, 0⟩⟩) rfl rfl (by simp) h
    simp at this; omega
  · rw [e.2.1, e.2.2.1] at h
    have := block_between (by decide) h
    rw [e.2.2.2.1, e.2.2.2.2] at this; omega

theorem witness_PredCommandsStoreThePrediction :
    predMin.mem.wf ∧ Spec.Depth predMin.bitDepthY ∧ (Spec.Depth predMin.bitDepthC ∧ predMin.chromaFmt ≠ 0) ∧
    (1 ≤ predMin.count 8 ∧ predMin.count 8 ≤ 128 ∧ 1 ≤ predMin.count 9 ∧ predMin.count 9 ≤ 128) ∧
    (predMin.u32 0 % 2 = 0 ∧ predMin.u32 2 % 2 = 0) ∧ predMin.u32 3 = 2 ∧
    Spec.AllInMemory .mcPredLuma predMin ∧ Spec.AllInMemory .mcPredChroma predMin :=
  ⟨by decide, by unfold Spec.Depth; decide, by unfold Spec.Depth; decide, by decide, by decide, by decide,
    predMin_inMemory _ (.inl rfl), predMin_inMemory _ (.inr rfl)⟩

/-- A block that fills its picture. -/
def clipState : State :=
  withArgs [(4, 0), (5, 0), (8, 64), (9, 64)] { cfg420 base with cfg1 := 0x00400040 }

theorem witness_MvClip :
    clipState.cfgPic = true ∧ (1 ≤ clipState.count 8 ∧ clipState.count 8 ≤ 128 ∧ 1 ≤ clipState.count 9 ∧ clipState.count 9 ≤ 128) ∧
    (0 ≤ clipState.s32 4 ∧ 0 ≤ clipState.s32 5 ∧ clipState.s32 4 + clipState.count 8 ≤ clipState.picW ∧
      clipState.s32 5 + clipState.count 9 ≤ clipState.picH) ∧ clipState.blockInPicture = true := by decide

theorem witness_BlockModes :
    (((withArgs [(10, 1)] blockState).args[10]).getLsbD 0 = true ∧ ((withArgs [(10, 1)] blockState).args[10]).getLsbD 1 = false ∧
      (withArgs [(10, 1)] blockState).predMode = .l0) ∧
    (((withArgs [(10, 2)] blockState).args[10]).getLsbD 0 = false ∧ ((withArgs [(10, 2)] blockState).args[10]).getLsbD 1 = true ∧
      (withArgs [(10, 2)] blockState).predMode = .l1) ∧
    (blockState.args[10]).getLsbD 0 = true ∧ (blockState.args[10]).getLsbD 1 = true ∧ blockState.predMode = .bi ∧
    (withArgs [(13, 8), (14, 0), (12, 8)] blockState).predMode = .l0 := by decide

/-- Both lists used, with equal POCs and vectors, and planes of equal samples at different bases. -/
def sameState : State := withArgs [(13, 8), (14, 0), (12, 8)] { blockState with mem := [] }

theorem witness_ShortcutIsInvisible :
    (sameState.args[10]).getLsbD 0 = true ∧ (sameState.args[10]).getLsbD 1 = true ∧ sameState.predMode = .l0 ∧
    (Spec.planes sameState).map (fun p => (p.w, p.h, p.pred0.refBase, p.pred1.refBase)) =
      [(4, 4, 0x4000, 0x4200), (2, 2, 0x4400, 0x4500), (2, 2, 0x4480, 0x4580)] ∧
    ∀ a b : Int, sameState.mem.read16 a = sameState.mem.read16 b :=
  ⟨by decide, by decide, by decide, by decide, fun _ _ => rfl⟩

/-- The block of P4 with both vectors zero, so that its windows are its blocks. -/
def stillState : State := withArgs [(6, 0), (14, 0)] blockState

/-- Its planes, from the ARGs of P4. -/
theorem stillState_planes :
    Spec.planes stillState =
      [⟨0x5000, 4, 4, 4, ⟨false, 0x4000, 16, 0, 0, 4, 4, ⟨0, 0⟩⟩, ⟨false, 0x4200, 16, 0, 0, 4, 4, ⟨0, 0⟩⟩⟩,
       ⟨0x5020, 2, 2, 2, ⟨true, 0x4400, 8, 0, 0, 2, 2, ⟨0, 0⟩⟩, ⟨true, 0x4500, 8, 0, 0, 2, 2, ⟨0, 0⟩⟩⟩,
       ⟨0x5028, 2, 2, 2, ⟨true, 0x4480, 8, 0, 0, 2, 2, ⟨0, 0⟩⟩, ⟨true, 0x4580, 8, 0, 0, 2, 2, ⟨0, 0⟩⟩⟩] := by decide

theorem stillState_inMemory : Spec.AllInMemory .mcBlock stillState := by
  have e : stillState.params.memBytes = 0x10000 := rfl
  have key : ∀ p ∈ Spec.planes stillState, (∀ q ∈ [p.pred0, p.pred1], q.mv.x = 0 ∧ q.mv.y = 0 ∧ 0 ≤ q.refStride ∧
      0 ≤ q.refBase + 2 * (q.y * q.refStride + q.x) ∧
      q.refBase + 2 * ((q.y + q.h - 1) * q.refStride + (q.x + q.w - 1)) + 2 ≤ 0x10000) ∧
      ∀ r < p.h, ∀ c < p.w, 0 ≤ p.addr r c ∧ p.addr r c + 2 ≤ 0x10000 := by
    rw [stillState_planes]; decide
  have win : ∀ p ∈ Spec.planes stillState, ∀ q ∈ [p.pred0, p.pred1], ∀ a, Spec.Window stillState q a →
      0 ≤ a ∧ a + 2 ≤ 0x10000 := by
    intro p hp q hq a h
    have k := (key p hp).1 q hq
    have := window_between k.1 k.2.1 k.2.2.1 h
    omega
  intro a ha
  unfold Spec.InMemory
  rw [e]
  rcases ha with ⟨p, hp, ⟨-, h⟩ | ⟨-, h⟩⟩ | ⟨p, hp, r, c, hr, hc, rfl⟩
  · exact win p hp _ (by simp) a h
  · exact win p hp _ (by simp) a h
  · exact (key p hp).2 r hr c hc

theorem witness_BlockStoresEveryPlane :
    stillState.mem.wf ∧ Spec.Pic stillState ∧ Spec.Depth stillState.bitDepthY ∧
    (stillState.chromaFmt ≠ 0 ∧ Spec.Depth stillState.bitDepthC) ∧ Spec.Size stillState ∧ Spec.Inside stillState ∧
    Spec.ChromaAligned stillState ∧ (stillState.args[10]).getLsbD 0 = true ∧ Spec.BlockBasesEven stillState ∧
    Spec.AllInMemory .mcBlock stillState ∧ stillState.blockWrites.Nodup := by
  refine ⟨by decide, ?_, ?_, ?_, ?_, ?_, ?_, by decide, ?_, stillState_inMemory, by decide⟩
  · unfold Spec.Pic; decide
  · unfold Spec.Depth; decide
  · unfold Spec.Depth; decide
  · unfold Spec.Size; decide
  · unfold Spec.Inside; decide
  · unfold Spec.ChromaAligned; decide
  · unfold Spec.BlockBasesEven; rw [stillState_planes]; decide

theorem witness_ReferencePictureOfAnIndex :
    [picOf bsState.refPoc0 (-1), picOf bsState.refPoc0 0, picOf bsState.refPoc0 15, picOf bsState.refPoc0 16] =
      [some none, some (some 8), some (some 0), none] := by decide

/-- Records that fall under each clause, indices 15 and 16 among them. -/
theorem witness_BoundaryStrengthClasses :
    (rec' true true 16 16 ⟨0, 0⟩ ⟨0, 0⟩).intra = true ∧ (rec' false true 16 16 ⟨0, 0⟩ ⟨0, 0⟩).cbf = true ∧
    bsState.bs (rec' false false 15 (-1) ⟨0, 0⟩ ⟨0, 0⟩) (rec' false false 15 (-1) ⟨3, 3⟩ ⟨0, 0⟩) = some 3 ∧
    bsState.bs (rec' false false 15 16 ⟨0, 0⟩ ⟨0, 0⟩) (rec' false false 15 15 ⟨0, 0⟩ ⟨0, 0⟩) = none := by decide

theorem witness_BsStoresTheClass :
    (bsMem.u32 0 % 2 = 0 ∧ bsMem.u32 1 % 2 = 0) ∧
    (bsMem.u32 0 + 12 ≤ bsMem.params.memBytes ∧ bsMem.u32 1 + 12 ≤ bsMem.params.memBytes) ∧
    bsMem.bs (bsMem.mem.recordAt (bsMem.u32 0)) (bsMem.mem.recordAt (bsMem.u32 1)) = some 2 := by decide

theorem witness_QpcStoresClippedAndRemapped :
    okBD (cfg420 base).bitDepthC = true ∧ okBD ({ base with cfg0 := 0x000241E8 } : State).bitDepthC = true := by decide

theorem witness_Clamp :
    edgeClamp 20 20 = 20 ∧ edgeClamp 21 20 = 19 ∧ edgeClamp (-39) 20 = 1 ∧ edgeClamp 40 20 = 0 ∧ edgeClamp 0 0 = 0 := by decide

theorem witness_ZeroThresholdAndFlatLines :
    (∀ x ∈ [(0 : Int), 255, 0, 255], 0 ≤ x ∧ x ≤ 2 ^ 8 - 1) ∧ filterLuma ⟨0, 255, 0, 255⟩ 0 8 = ⟨0, 255, 0, 255⟩ ∧
    filterLuma ⟨255, 255, 255, 255⟩ 60 8 = ⟨255, 255, 255, 255⟩ := by decide

/-- Line 0 of P2. -/
def oneLine (luma : Bool) : EdgeLine := ⟨luma, 0x3004, 0x3006, 0x3008, 0x300A, 20, 8⟩

/-- Four distinct addresses, two that meet, and four that are one (XSTEP = 0). -/
theorem witness_LineFilteredInMemory :
    edgeState.mem.wf ∧ (oneLine true).bd ≤ 16 ∧
    (∀ a ∈ [(oneLine true).aA, (oneLine true).aB, (oneLine true).aC, (oneLine true).aD], 0 ≤ a ∧ a % 2 = 0) ∧
    [(oneLine true).aA, (oneLine true).aB, (oneLine true).aC, (oneLine true).aD].Nodup ∧ (oneLine false).luma = false ∧
    (filterLine edgeState.mem ⟨true, 0x3008, 0x3008, 0x3008, 0x3008, 20, 4⟩).read16 0x3008 = 15 ∧
    (filterLine edgeState.mem ⟨false, 0x3008, 0x3008, 0x3008, 0x3008, 20, 4⟩).read16 0x3008 = 15 ∧
    (filterLine edgeState.mem ⟨true, 0x3004, 0x3006, 0x3006, 0x3006, 20, 8⟩).read16 0x3004 = 10 := by decide

theorem witness_EdgeCommands :
    okBD edgeState.bitDepthY = true ∧ okBD edgeState.bitDepthC = true ∧ (1 ≤ edgeState.count 3 ∧ edgeState.count 3 ≤ 64) ∧
    edgeState.u32 0 % 2 = 0 ∧
    (∀ k < edgeState.count 3, ∀ t ∈ [-2, -1, 0, 1],
      0 ≤ edgeState.u32 0 + 2 * ((k : Nat) : Int) * edgeState.s32 2 + 2 * t * edgeState.s32 1 ∧
      edgeState.u32 0 + 2 * ((k : Nat) : Int) * edgeState.s32 2 + 2 * t * edgeState.s32 1 + 2 ≤ edgeState.params.memBytes) := by
  decide

/-- P3's edge for both passes, and one that is not filtered. -/
theorem witness_CuFiltersItsEdgeAndMarks :
    cuState.cfgDF = true ∧ cuState.cuGeometry = true ∧ cuState.cuBasesEven = true ∧ cuState.edgeFiltered .hor = true ∧
    (∀ k < cuState.segments .hor,
      (∀ r ∈ [cuState.recP .hor k, cuState.recQ .hor k], 0 ≤ r ∧ r + 12 ≤ cuState.params.memBytes) ∧ cuState.segThr .hor k ≠ none ∧
      ∀ e ∈ cuState.segLines .hor k, ∀ a ∈ e.reads, 0 ≤ a ∧ a + 2 ≤ cuState.params.memBytes) ∧
    cuState.edgeFiltered .ver = false ∧ cuVerState.edgeFiltered .ver = true ∧ commandFault .dfCuVer cuVerState = none := by decide

theorem witness_SegmentsThresholdsAndLines :
    cuState.cuGeometry = true ∧ cuVerState.cuGeometry = true ∧ cuState.segThr .hor 0 = some ⟨8, 0, 0⟩ ∧
    cuVerState.segThr .ver 0 = some ⟨8, 0, 0⟩ := by decide

theorem witness_ThresholdLookup :
    base.params.wf = true ∧ base.params.dfQpMin = 0 ∧ base.params.dfQpMax = 51 ∧ base.thr 1 (-1) 8 = none ∧
    base.thr 1 0 8 = some 8 ∧ base.thr 1 51 14 = some 512 ∧ base.thr 1 52 8 = none :=
  ⟨test_sample_parameters_wf, by decide, by decide, by decide, by decide, by decide, by decide⟩

/-- P3's picture in 4:2:0, flat at 128 in every plane (T2). -/
def flatPicture : State :=
  withMem (window 0x7000 8 0 0 8 8 (fun _ _ => 128) ++ window 0x7100 4 0 0 4 4 (fun _ _ => 128) ++
      window 0x7200 4 0 0 4 4 (fun _ _ => 128) ++ [(0x6000, 0x1E02), (0x6002, 0xFF00), (0x6020, 0x1E02), (0x6022, 0xFF00)])
    { cuState with mem := [], cfg0 := 0x00023188, picCbBase := 0x7100, picCrBase := 0x7200, picCStride := 4 }

set_option maxRecDepth 16000 in
theorem flatPicture_luma :
    ∀ y < 8, ∀ x < 8, flatPicture.mem.read16 (sampleAddr flatPicture.picYBase.toNat flatPicture.picYStride.toNat
      (x : Nat) (y : Nat)) = 128 := by decide

set_option maxRecDepth 16000 in
theorem flatPicture_chroma :
    ∀ base ∈ [flatPicture.picChromaBase .cb, flatPicture.picChromaBase .cr], ∀ y < 4, ∀ x < 4,
      flatPicture.mem.read16 (sampleAddr base flatPicture.picCStride.toNat (x : Nat) (y : Nat)) = 128 := by decide

set_option maxRecDepth 16000 in
theorem witness_FlatPictureIsUnchanged :
    flatPicture.mem.wf ∧ (128 : Int) ≤ 2 ^ flatPicture.bitDepthY - 1 ∧ flatPicture.chromaFmt = 1 ∧
    (128 : Int) ≤ 2 ^ flatPicture.bitDepthC - 1 ∧ flatPicture.picW = 8 ∧ flatPicture.picH = 8 ∧
    flatPicture.edgeFiltered .hor = true ∧ commandFault .dfCuHor flatPicture = none := by decide

theorem witness_LittleEndianAccess : edgeState.mem.wf ∧ edgeState.mem ≠ [] := by decide

theorem witness_HostMemoryAccess :
    base.params.memBytes ≤ 0x10000 ∧ 0xFFFF < base.params.memBytes ∧ 0xFFFE + 1 < base.params.memBytes ∧
    base.params.memBytes ≤ 0xFFFF + 1 ∧ base.status.busy = false ∧ base.mem.wf ∧
    (loaded 3 biState).status.busy = true ∧ 0x1000 ∈ (loaded 3 biState).pendingReads ∧
    0x1207 ∈ (loaded 3 biState).pendingWrites ∧ 0x1208 ∉ (loaded 3 biState).pendingReads ∧
    0x1208 ∉ (loaded 3 biState).pendingWrites ∧
    commandFault .dfBs (loaded 0x10 (withMem [(0x102, 0xFF10)] bsMem)) = some .tableRange ∧
    0x10B ∈ (loaded 0x10 (withMem [(0x102, 0xFF10)] bsMem)).pendingReads ∧
    0x11C ∉ (loaded 0x10 (withMem [(0x102, 0xFF10)] bsMem)).pendingReads := by decide

/-- Every command completes in some state by its own effect: none of its checks fails there. -/
theorem witness_every_command_runs :
    base.Runs .nop ∧ predMin.Runs .mcPredLuma ∧ predMin.Runs .mcPredChroma ∧ biState.Runs .mcBiAvg ∧ clipState.Runs .mcMvClip ∧
    blockState.Runs .mcBlock ∧ bsMem.Runs .dfBs ∧ edgeState.Runs .dfEdgeLuma ∧ edgeState.Runs .dfEdgeChroma ∧
    (cfg420 base).Runs .dfQpcCb ∧ (cfg420 base).Runs .dfQpcCr ∧ base.Runs .dfPassBegin ∧ cuState.Runs .dfCuHor ∧
    cuVerState.Runs .dfCuVer := by
  refine ⟨?_, ?_, ?_, ?_, ?_, ?_, ?_, ?_, ?_, ?_, ?_, ?_, ?_, ?_⟩ <;> unfold State.Runs <;> decide

end Sys2Proof.Tests
end

/-! # The programmer's state (10_state.md): rules of the register window, of the engine's turn, of reset and of what a
command's effect leaves, and the statements they settle -/

namespace Sys2Proof.Machine

/-! ## Fields of a word -/

/-- A field of a word, as arithmetic on the word's value. -/
theorem bits_eq (w : Word) (lo len : Nat) : bits w lo len = w.toNat / 2 ^ lo % 2 ^ len := by
  rw [bits, BitVec.extractLsb'_toNat, Nat.shiftRight_eq_div_pow]

/-- A mask whose bits are all set in a field leaves that field as it is. -/
theorem extractLsb'_and_mask {m : Word} {lo len : Nat} (h : m.extractLsb' lo len = BitVec.allOnes len) (w : Word) :
    (w &&& m).extractLsb' lo len = w.extractLsb' lo len := by
  rw [BitVec.extractLsb'_and, h, BitVec.and_allOnes]

theorem bits_and_mask {m : Word} {lo len : Nat} (h : m.extractLsb' lo len = BitVec.allOnes len) (w : Word) :
    bits (w &&& m) lo len = w.toNat / 2 ^ lo % 2 ^ len := by
  rw [← bits_eq, bits, bits, extractLsb'_and_mask h]

theorem and_one_eq_ite (v : Word) : v &&& 1#32 = if v.getLsbD 0 then 1 else 0 := by
  rw [BitVec.and_one_eq_setWidth_ofBool_getLsbD]
  cases v.getLsbD 0 <;> rfl

theorem cast_and_cast {m n : Nat} (h : m = n) (x y : BitVec m) : x.cast h &&& y.cast h = (x &&& y).cast h := by
  subst h; rfl

/-! ## STATUS as a word (R35) -/

/-- STATUS with the widths of its fields in its type, where the library's lemmas about `++` apply. -/
theorem Status.word_eq (t : Status) :
    t.word = (0#8 ++ t.errOp ++ t.errCode ++ 0#4 ++ BitVec.ofBool t.wign ++ BitVec.ofBool t.err ++
      BitVec.ofBool t.done ++ BitVec.ofBool t.busy).cast (m := 32) (by rfl) := rfl

theorem Status.word_flags (t : Status) :
    t.word.getLsbD 0 = t.busy ∧ t.word.getLsbD 1 = t.done ∧ t.word.getLsbD 2 = t.err ∧ t.word.getLsbD 3 = t.wign := by
  simp only [Status.word_eq, BitVec.getLsbD_cast, BitVec.getLsbD_append, BitVec.getLsbD_ofBool]
  simp

theorem Status.word_errCode (t : Status) : t.word.extractLsb' 8 8 = t.errCode := by
  simp only [Status.word_eq, BitVec.extractLsb'_cast, BitVec.extractLsb'_append_eq_ite]
  simp

theorem Status.word_errOp (t : Status) : t.word.extractLsb' 16 8 = t.errOp := by
  simp only [Status.word_eq, BitVec.extractLsb'_cast, BitVec.extractLsb'_append_eq_ite]
  simp

theorem Status.word_reserved (t : Status) : t.word.extractLsb' 4 4 = 0 ∧ t.word.extractLsb' 24 8 = 0 := by
  simp only [Status.word_eq, BitVec.extractLsb'_cast, BitVec.extractLsb'_append_eq_ite]
  simp

/-- The reserved bits of STATUS read as 0 (R46): the mask is cut into STATUS's own fields, and meets each of them in 0. -/
theorem Status.word_and_reserved (t : Status) : t.word &&& ~~~0x00FFFF0F = 0 := by
  have hmask : (~~~0x00FFFF0F : Word) =
      (0xFF#8 ++ 0#8 ++ 0#8 ++ 0xF#4 ++ 0#1 ++ 0#1 ++ 0#1 ++ 0#1).cast (m := 32) (by rfl) := by decide
  rw [hmask, Status.word_eq, cast_and_cast]
  simp only [BitVec.and_append]
  simp

theorem Status.writeOneToClear_eq (t : Status) (v : Word) :
    t.writeOneToClear v =
      { busy := t.busy
        done := if v.getLsbD 1 then false else t.done
        err := if v.getLsbD 2 then false else t.err
        errCode := if v.getLsbD 2 then 0 else t.errCode
        errOp := if v.getLsbD 2 then 0 else t.errOp
        wign := if v.getLsbD 3 then false else t.wign } := by
  have hclear (flag w : Bool) : (flag && !w) = if w then false else flag := by cases w <;> simp
  simp only [Status.writeOneToClear, hclear]

/-- A write of STATUS looks at bits 1, 2 and 3 of the word only. -/
theorem clearStatus_congr {v w : Word} (h₁ : v.getLsbD 1 = w.getLsbD 1) (h₂ : v.getLsbD 2 = w.getLsbD 2)
    (h₃ : v.getLsbD 3 = w.getLsbD 3) (s : State) : s.clearStatus v = s.clearStatus w := by
  simp only [State.clearStatus, Status.writeOneToClear, h₁, h₂, h₃]

/-! ## Offsets of the window (R32) -/

/-- Which words of the window are no register. -/
theorem regAtIndex_eq_reserved_iff {n : Nat} :
    regAtIndex n = .reserved ↔ (13 ≤ n ∧ n < 16) ∨ (20 ≤ n ∧ n < 32) ∨ 96 ≤ n := by
  unfold regAtIndex
  split_ifs
  · exact iff_of_false (by split <;> nofun) (by omega)
  · exact iff_of_false nofun (by omega)
  · exact iff_of_false nofun (by omega)
  · exact iff_of_false nofun (by omega)
  · exact iff_of_false nofun (by omega)
  · exact iff_of_true rfl (by omega)

/-! ## A host write is taken or ignored (R34, R47) -/

theorem writeReg_of_idle {s : State} (h : s.status.busy = false) (r : Reg) (v : Word) :
    s.writeReg r v = s.storeReg r v := by simp [State.writeReg, h]

theorem writeReg_of_busy {s : State} {r : Reg} (h : s.status.busy = true) (hr : r.writableWhileBusy = false) (v : Word) :
    s.writeReg r v = s.ignoreWrite := by simp [State.writeReg, h, hr]

theorem writeReg_of_writableWhileBusy {r : Reg} (h : r.writableWhileBusy = true) (s : State) (v : Word) :
    s.writeReg r v = s.storeReg r v := by simp [State.writeReg, h]

@[simp] theorem writeReg_status (s : State) (v : Word) : s.writeReg .status v = s.clearStatus v :=
  writeReg_of_writableWhileBusy rfl s v

@[simp] theorem writeReg_ctrl (s : State) (v : Word) : s.writeReg .ctrl v = { s with irqEn := v.getLsbD 0 } :=
  writeReg_of_writableWhileBusy rfl s v

@[simp] theorem writeReg_reserved (s : State) (v : Word) : s.writeReg .reserved v = s :=
  writeReg_of_writableWhileBusy rfl s v

theorem writableWhileBusy_eq_false {r : Reg} (hstatus : r ≠ .status) (hctrl : r ≠ .ctrl) (hreserved : r ≠ .reserved) :
    r.writableWhileBusy = false := by
  cases r
  case status | ctrl | reserved => contradiction
  all_goals rfl

theorem storeReg_cmd_of_err {s : State} (h : s.status.err = true) (w : Word) : s.storeReg .cmd w = s.ignoreWrite :=
  if_pos h

theorem storeReg_cmd_of_noErr {s : State} (h : s.status.err = false) (w : Word) :
    s.storeReg .cmd w = s.acceptCommand w := by simp [State.storeReg, h]

theorem writeReg_cfg0_and_mask (s : State) (v : Word) : s.writeReg .cfg0 (v &&& cfg0Mask) = s.writeReg .cfg0 v := by
  simp only [State.writeReg, State.storeReg, BitVec.and_assoc, BitVec.and_self]

theorem writeReg_cfg2_and_mask (s : State) (v : Word) : s.writeReg .cfg2 (v &&& cfg2Mask) = s.writeReg .cfg2 v := by
  simp only [State.writeReg, State.storeReg, BitVec.and_assoc, BitVec.and_self]

/-! ## What a taken write changes (R33 to R45) -/

theorem getElem_set_of_ne {n : Nat} (x : Vector Word n) {i j : Fin n} (h : j ≠ i) (v : Word) : (x.set i v)[j] = x[j] :=
  Vector.getElem_set_ne _ _ fun he => h (Fin.ext he.symm)

/-- A taken write of a register other than CMD and STATUS changes what no other register reads. -/
theorem readReg_storeReg_ne {r r' : Reg} (hcmd : r ≠ .cmd) (hstatus : r ≠ .status) (hne : r' ≠ r) (s : State) (v : Word) :
    (s.storeReg r v).readReg r' = s.readReg r' := by
  cases r
  case cmd | status => contradiction
  case id | result | reserved => rfl
  case arg i =>
    cases r'
    case arg j => exact getElem_set_of_ne _ (fun h => hne (congrArg _ h)) v
    all_goals rfl
  case refPoc0 i =>
    cases r'
    case refPoc0 j => exact getElem_set_of_ne _ (fun h => hne (congrArg _ h)) v
    all_goals rfl
  case refPoc1 i =>
    cases r'
    case refPoc1 j => exact getElem_set_of_ne _ (fun h => hne (congrArg _ h)) v
    all_goals rfl
  all_goals cases r' <;> simp [State.storeReg, State.readReg] at hne ⊢ <;> rfl

/-- A base, a stride, an ARG or a REFPOC entry reads back what was written: it has no reserved bits. -/
theorem readReg_storeReg_same {r : Reg}
    (h : r = .mapBase ∨ r = .picYBase ∨ r = .picCbBase ∨ r = .picCrBase ∨ r = .picYStride ∨ r = .picCStride ∨
      (∃ i, r = .arg i) ∨ (∃ i, r = .refPoc0 i) ∨ ∃ i, r = .refPoc1 i) (s : State) (v : Word) :
    (s.storeReg r v).readReg r = v := by
  rcases h with rfl | rfl | rfl | rfl | rfl | rfl | ⟨i, rfl⟩ | ⟨i, rfl⟩ | ⟨i, rfl⟩ <;>
    simp [State.storeReg, State.readReg]

/-! ## The engine's turn (R50, R292) -/

theorem step_of_agenda_nil {s : State} (h : s.agenda = []) : step s = s.engineTurn := by
  simp only [step, State.advance, h]

theorem step_of_agenda_cons {s : State} {mv : Move} {rest : List Move} (h : s.agenda = mv :: rest) :
    step s = { s with agenda := rest }.make mv := by simp only [step, State.advance, h]

theorem engineTurn_of_busy {s : State} (h : s.status.busy = true) : s.engineTurn = s.engineStep := if_pos h

theorem engineStep_of_decode {s : State} {i : Instr} (h : decode s.pending = .ok i) : s.engineStep = exec i s := by
  simp only [State.engineStep, h]

theorem engineTurn_of_decode {s : State} {i : Instr} (hbusy : s.status.busy = true) (hi : decode s.pending = .ok i) :
    s.engineTurn = exec i s := (engineTurn_of_busy hbusy).trans (engineStep_of_decode hi)

/-! ## The interrupt line (R52, R260) -/

theorem irq_iff {s : State} : s.irq = true ↔ s.irqEn = true ∧ (s.status.done = true ∨ s.status.err = true) := by
  simp [State.irq]

theorem irq_of_done {s : State} (h : s.status.done = true) : s.irq = s.irqEn := by simp [State.irq, h]

theorem irq_of_disabled {s : State} (h : s.irqEn = false) : s.irq = false := by simp [State.irq, h]

@[simp] theorem commandEffect_irqEn (i : Instr) (s : State) : (commandEffect i s).irqEn = s.irqEn := by
  rw [commandEffect_shape]

/-- Every command, faulted or not, ends with DONE = 1 (R50, R252). -/
theorem exec_done {i : Instr} {s t : State} (h : exec i s = .next t) : t.status.done = true := by
  rcases exec_cases h with ⟨e, -, rfl⟩ | ⟨-, rfl⟩ <;> simp

theorem exec_irqEn {i : Instr} {s t : State} (h : exec i s = .next t) : t.irqEn = s.irqEn := by
  rcases exec_cases h with ⟨e, -, rfl⟩ | ⟨-, rfl⟩ <;> simp

/-! ## Reset (R53) -/

theorem readReg_resetWith {r : Reg} (h : r ≠ .id) (p : Config.Params) (m : Memory) :
    (State.resetWith p m).readReg r = 0 := by
  cases r
  case id => contradiction
  case result i | arg i | refPoc0 i | refPoc1 i => exact Vector.getElem_replicate _
  case status => exact (by decide : Status.reset.word = 0)
  all_goals rfl

theorem sample_wf : Config.sample.wf = true := by decide

theorem platform_wf : Config.platform.wf = true := by
  unfold Config.platform
  split
  · assumption
  · exact sample_wf

/-- Reset with well-formed parameters, over any canonical memory inside MEM_BYTES, gives a state of the invariant. -/
theorem inv_resetWith {p : Config.Params} {m : Memory} (hp : p.wf = true) (hm : m.wf) (hmem : ∀ c ∈ m, c.1 < p.memBytes) :
    (State.resetWith p m).Inv where
  memCanonical := hm
  memExists := hmem
  paramsWf := hp
  noErrNoCode _ := ⟨rfl, rfl⟩
  errCodeKnown := nofun
  busyClear := nofun
  cfg0Reserved := BitVec.zero_and
  cfg2Reserved := BitVec.zero_and
  codedCanonical := .nil
  codedExists := nofun

/-! ## What an effect leaves of RESULT and CODED (R43, R49) -/

theorem commandEffect_results {i : Instr} (hclip : i ≠ .mcMvClip) (hbs : i ≠ .dfBs) (hcb : i ≠ .dfQpcCb)
    (hcr : i ≠ .dfQpcCr) (s : State) : (commandEffect i s).results = s.results := by
  cases i
  case mcMvClip | dfBs | dfQpcCb | dfQpcCr => contradiction
  all_goals rfl

theorem setResult_getElem_ne {i : Fin 4} {k : Nat} (hk : k < 4) (h : i.val ≠ k) (s : State) (v : Int) :
    (s.setResult i v).results[k] = s.results[k] := Vector.getElem_set_ne i.isLt hk h

/-- No effect writes RESULT2 or RESULT3: those that write RESULT write RESULT0 and RESULT1 only. -/
theorem commandEffect_results_high {k : Nat} (hk : k < 4) (h : 2 ≤ k) (i : Instr) (s : State) :
    (commandEffect i s).results[k] = s.results[k] := by
  have h₀ : (0 : Fin 4).val ≠ k := by simp; omega
  have h₁ : (1 : Fin 4).val ≠ k := by simp; omega
  cases i
  case dfBs => exact setResult_getElem_ne hk h₀ s _
  case mcMvClip => exact (setResult_getElem_ne hk h₁ _ _).trans (setResult_getElem_ne hk h₀ s _)
  case dfQpcCb | dfQpcCr => exact (setResult_getElem_ne hk h₀ _ _).trans (setResult_getElem_ne hk h₁ s _)
  all_goals rfl

theorem commandEffect_coded {i : Instr} (hbegin : i ≠ .dfPassBegin) (hhor : i ≠ .dfCuHor) (hver : i ≠ .dfCuVer)
    (s : State) : (commandEffect i s).coded = s.coded := by
  cases i
  case dfPassBegin | dfCuHor | dfCuVer => contradiction
  all_goals rfl

/-- The mark of a DF_CU command (R210) clears no bit. -/
theorem cuEffect_coded_mono (p : Pass) {s : State} {j k : Nat} (h : s.coded.get j k = true) :
    (cuEffect p s).coded.get j k = true :=
  (Coded.get_eq _ j k).2 (Coded.mem_mark.2 (.inr ((Coded.get_eq _ j k).1 h)))

/-! ## The statements: tier 2 -/

/-- Settles O7: an idle write is taken, so each clause is the read-back, the frame or the field of a taken write. -/
theorem registerWritesReadBack : Obligations.RegisterWritesReadBack := by
  unfold Obligations.RegisterWritesReadBack
  intro s v hidle
  simp only [writeReg_of_idle hidle]
  refine ⟨(and_one_eq_ite v).symm, rfl, rfl, rfl, fun r hr => readReg_storeReg_same hr s v, ?_,
    fun r r' hcmd hstatus hne => readReg_storeReg_ne hcmd hstatus hne s v, ⟨?_, ?_, ?_, ?_, ?_⟩, ?_, ?_, ?_, ?_⟩
  · rintro r (rfl | ⟨i, rfl⟩) <;> rfl
  · exact (bits_and_mask (by decide) v).trans (by norm_num)
  · exact bits_and_mask (by decide) v
  · exact bits_and_mask (by decide) v
  · exact bits_and_mask (by decide) v
  · exact bits_and_mask (by decide) v
  · exact (bits_eq v 0 16).trans (by norm_num)
  · exact (bits_eq v 16 16).trans (Nat.mod_eq_of_lt (by omega))
  · exact congrArg BitVec.toInt (extractLsb'_and_mask (m := cfg2Mask) (by decide) v)
  · exact congrArg BitVec.toInt (extractLsb'_and_mask (m := cfg2Mask) (by decide) v)

/-- Settles O8: the stored CFG0 and CFG2 by the invariant, CTRL and STATUS by their layout, and a write by what it looks at. -/
theorem reservedBitsReadZeroAndIgnoreWrites : Obligations.ReservedBitsReadZeroAndIgnoreWrites := by
  unfold Obligations.ReservedBitsReadZeroAndIgnoreWrites
  intro s v
  refine ⟨rfl, writeReg_reserved s v, ?_, ?_, s.status.word_and_reserved, ?_, State.Inv.cfg0Reserved,
    (writeReg_cfg0_and_mask s v).symm, State.Inv.cfg2Reserved, (writeReg_cfg2_and_mask s v).symm⟩
  · cases h : s.irqEn <;> simp [State.readReg, h]
  · simp
  · rw [writeReg_status, writeReg_status]
    exact clearStatus_congr (by simp) (by simp) (by simp) s

/-- Settles O20: a faulted command writes only STATUS, and the effects are gone through one by one. -/
theorem resultsAndCodedAreWrittenBySomeCommandsOnly : Obligations.ResultsAndCodedAreWrittenBySomeCommandsOnly := by
  unfold Obligations.ResultsAndCodedAreWrittenBySomeCommandsOnly
  intro i s t h
  rcases exec_cases h with ⟨e, -, rfl⟩ | ⟨hruns, rfl⟩
  · simp
  · refine ⟨fun hclip hbs hcb hcr => commandEffect_results hclip hbs hcb hcr s,
      commandEffect_results_high (by omega) (by omega) i s, commandEffect_results_high (by omega) (by omega) i s, ?_,
      fun hbegin hhor hver => commandEffect_coded hbegin hhor hver s, ?_, fun hfault => absurd hruns hfault⟩
    · rintro rfl
      exact setResult_getElem_ne (by omega) (by decide) s _
    · rintro (rfl | rfl) j k hjk
      · exact cuEffect_coded_mono .hor hjk
      · exact cuEffect_coded_mono .ver hjk

/-! ## The statements: tier 1 -/

/-- Settles O4: both ways to the engine's turn end in `engineTurn_of_decode`. -/
theorem stepRunsTheDecodedCommand : Obligations.StepRunsTheDecodedCommand := by
  unfold Obligations.StepRunsTheDecodedCommand
  refine fun s i hbusy hi => ⟨fun hnil => ?_, fun rest hcons => ?_⟩
  · rw [step_of_agenda_nil hnil, engineTurn_of_decode hbusy hi]
  · rw [step_of_agenda_cons hcons]
    exact engineTurn_of_decode (s := { s with agenda := rest }) hbusy hi

/-- Settles O6: the named offsets by evaluation, the reserved ones by `regAtIndex_eq_reserved_iff`. -/
theorem windowOffsets : Obligations.WindowOffsets := by
  unfold Obligations.WindowOffsets
  refine ⟨rfl, rfl, rfl, rfl, rfl, rfl, rfl, rfl, rfl, rfl, rfl, rfl, rfl, by decide, by decide, by decide, by decide, ?_⟩
  intro off haligned
  rw [regAt, regAtIndex_eq_reserved_iff]
  omega

/-- Settles O9: BUSY and ERR decide between ignoring and accepting. -/
theorem cmdWriteHasThreeEffects : Obligations.CmdWriteHasThreeEffects := by
  unfold Obligations.CmdWriteHasThreeEffects
  refine ⟨rfl, fun s w => ⟨rfl, fun hbusy => writeReg_of_busy hbusy rfl w, fun hidle herr => ?_, fun hidle herr => ?_⟩⟩
  · rw [writeReg_of_idle hidle, storeReg_cmd_of_err herr]; rfl
  · rw [writeReg_of_idle hidle, storeReg_cmd_of_noErr herr]
    exact ⟨rfl, engineTurn_of_busy rfl⟩

/-- Settles O10: of the registers only STATUS and CTRL take a write while BUSY = 1. -/
theorem writesWhileBusyAreIgnored : Obligations.WritesWhileBusyAreIgnored := by
  unfold Obligations.WritesWhileBusyAreIgnored
  exact fun s v hbusy =>
    ⟨fun r hstatus hctrl hreserved => writeReg_of_busy hbusy (writableWhileBusy_eq_false hstatus hctrl hreserved) v,
      writeReg_ctrl s v, writeReg_status s v⟩

/-- Settles O11: the fields of the STATUS word, and the write-one-to-clear rule. -/
theorem statusLayoutAndWriteOneToClear : Obligations.StatusLayoutAndWriteOneToClear := by
  unfold Obligations.StatusLayoutAndWriteOneToClear
  intro s v
  obtain ⟨hbusy, hdone, herr, hwign⟩ := s.status.word_flags
  obtain ⟨hlow, hhigh⟩ := s.status.word_reserved
  refine ⟨⟨hbusy, hdone, herr, hwign, hlow, s.status.word_errCode, s.status.word_errOp, hhigh⟩, ?_⟩
  rw [writeReg_status, State.clearStatus, Status.writeOneToClear_eq]

/-- Settles O16: every command ends with DONE = 1 and leaves IRQ_EN; CTRL = 0 and reset clear IRQ_EN. -/
theorem irqFollowsDoneAndErr : Obligations.IrqFollowsDoneAndErr := by
  unfold Obligations.IrqFollowsDoneAndErr
  refine ⟨fun s => irq_iff, fun i s t h => (irq_of_done (exec_done h)).trans (exec_irqEn h), fun s => ?_,
    fun s => ⟨irq_of_disabled rfl, irq_of_disabled rfl⟩⟩
  exact irq_of_disabled (by simp)

/-- Settles O17: the registers by `readReg_resetWith`, data memory by what a power-up lists. -/
theorem resetValues : Obligations.ResetValues := by
  unfold Obligations.ResetValues
  exact ⟨fun r h => readReg_resetWith h _ _, rfl, fun j i => rfl, rfl, rfl, fun a h => Memory.read_powerUp h⟩

/-- Settles O24: memory at power-up is canonical and lists addresses below MEM_BYTES only. -/
theorem resetSatisfiesTheInvariant : Obligations.ResetSatisfiesTheInvariant := by
  unfold Obligations.ResetSatisfiesTheInvariant
  exact inv_resetWith platform_wf (Memory.wf_powerUp _) fun c hc => (Memory.mem_powerUp.1 hc).1

end Sys2Proof.Machine

/-! # Data memory (20_memory.md): 16-bit values, the moves of a step and the invariant they keep, the address sets of the
commands as the rules give them, and the statements these settle -/

namespace Sys2Proof.Machine

/-! ## Little-endian 16-bit values (R72) -/

theorem ofInt_toNat_eq_low (v : BitVec 16) : BitVec.ofInt 8 v.toNat = v.extractLsb' 0 8 := by
  apply BitVec.eq_of_toNat_eq
  simp only [BitVec.toNat_ofInt, BitVec.extractLsb'_toNat]
  norm_num
  omega

theorem ofInt_asr_toNat_eq_high (v : BitVec 16) : BitVec.ofInt 8 (asr v.toNat 8) = v.extractLsb' 8 8 := by
  apply BitVec.eq_of_toNat_eq
  simp only [BitVec.toNat_ofInt, BitVec.extractLsb'_toNat, Nat.shiftRight_eq_div_pow, asr]
  norm_num
  omega

/-- A 16-bit write, read byte by byte. -/
theorem Memory.read_write16 {m : Memory} (hm : m.wf) (a : Nat) (v : BitVec 16) (b : Nat) :
    (m.write16 a v.toNat).read b =
      if b = a then v.extractLsb' 0 8 else if b = a + 1 then v.extractLsb' 8 8 else m.read b := by
  split_ifs with hlow hhigh
  · rw [hlow, ← ofInt_toNat_eq_low]
    exact read_write16_low hm a _
  · rw [hhigh, ← ofInt_asr_toNat_eq_high]
    exact read_write16_high hm a _
  · exact read_write16_ne hlow hhigh

/-! ## Checks (R253) -/

theorem firstFault_cons_eq_none {ok : Bool} {e : ErrCode} {l : List (Bool × ErrCode)} :
    firstFault ((ok, e) :: l) = none ↔ ok = true ∧ firstFault l = none := by cases ok <;> simp

theorem firstFault_cons_eq_some {ok : Bool} {e e' : ErrCode} {l : List (Bool × ErrCode)} :
    firstFault ((ok, e) :: l) = some e' ↔ ok = false ∧ e = e' ∨ ok = true ∧ firstFault l = some e' := by
  cases ok <;> simp

/-- The checks of DF_CU_HOR and DF_CU_VER that hold where the records are read (R209): all before the last. -/
theorem checks_of_cuFault {p : Pass} {s : State} (h : cuFault p s = none ∨ cuFault p s = some .tableRange) :
    s.cfgDF = true ∧ s.cuGeometry = true ∧ ∀ r ∈ s.cuRecords p, s.inRange recordBytes r = true := by
  simp only [cuFault, firstFault_cons_eq_none, firstFault_cons_eq_some, Bool.and_eq_true, List.all_eq_true, reduceCtorEq,
    and_false, false_or] at h
  rcases h with ⟨hcfg, hgeo, -, ⟨hrecords, -⟩, -⟩ | ⟨hcfg, hgeo, -, ⟨hrecords, -⟩, -⟩ <;>
    exact ⟨hcfg, hgeo, hrecords⟩

/-! ## The invariant's clauses about STATUS (R34, R35, R250) -/

/-- What `State.Inv` says of STATUS. -/
structure Status.Consistent (t : Status) : Prop where
  noErrNoCode : t.err = false → t.errCode = 0 ∧ t.errOp = 0
  errCodeKnown : t.err = true → 1 ≤ t.errCode.toNat ∧ t.errCode.toNat ≤ 7
  busyClear : t.busy = true → t.done = false ∧ t.err = false

theorem ErrCode.code_known (e : ErrCode) : 1 ≤ e.code.toNat ∧ e.code.toNat ≤ 7 := by cases e <;> decide

namespace Status.Consistent

theorem complete {t : Status} (h : t.Consistent) : t.complete.Consistent where
  noErrNoCode := h.noErrNoCode
  errCodeKnown := h.errCodeKnown
  busyClear := nofun

theorem fault (t : Status) (e : ErrCode) (w : Word) : (t.fault e w).Consistent where
  noErrNoCode := nofun
  errCodeKnown _ := e.code_known
  busyClear := nofun

theorem ignored {t : Status} (h : t.Consistent) : t.ignored.Consistent where
  noErrNoCode := h.noErrNoCode
  errCodeKnown := h.errCodeKnown
  busyClear := h.busyClear

theorem accept {t : Status} (h : t.Consistent) (herr : t.err = false) : t.accept.Consistent where
  noErrNoCode := h.noErrNoCode
  errCodeKnown := h.errCodeKnown
  busyClear _ := ⟨rfl, herr⟩

/-- Bit 2 clears ERR together with its codes, and without it both stay. -/
theorem writeOneToClear {t : Status} (h : t.Consistent) (v : Word) : (t.writeOneToClear v).Consistent := by
  rw [Status.writeOneToClear_eq]
  refine ⟨?_, ?_, fun hbusy => ?_⟩
  · cases v.getLsbD 2
    · exact h.noErrNoCode
    · exact fun _ => ⟨rfl, rfl⟩
  · cases v.getLsbD 2
    · exact h.errCodeKnown
    · nofun
  · obtain ⟨hdone, herr⟩ := h.busyClear hbusy
    simp [hdone, herr]

end Status.Consistent

namespace State.Inv

/-! ## Replacing one part of a state of the invariant -/

theorem statusConsistent {s : State} (h : s.Inv) : s.status.Consistent := ⟨h.noErrNoCode, h.errCodeKnown, h.busyClear⟩

theorem withStatus {s : State} (h : s.Inv) {t : Status} (ht : t.Consistent) : { s with status := t }.Inv :=
  { h with
    noErrNoCode := ht.noErrNoCode
    errCodeKnown := ht.errCodeKnown
    busyClear := ht.busyClear }

theorem withMem {s : State} (h : s.Inv) {m : Memory} (hm : m.wf) (hexists : ∀ c ∈ m, c.1 < s.params.memBytes) :
    { s with mem := m }.Inv :=
  { h with
    memCanonical := hm
    memExists := hexists }

theorem withAgenda {s : State} (h : s.Inv) (l : List Move) : { s with agenda := l }.Inv := { h with }

theorem withHostReads {s : State} (h : s.Inv) (l : List HostRead) : { s with hostReads := l }.Inv := { h with }

end State.Inv

/-! ## Register writes keep the invariant -/

theorem and_mask_and_not (v m : Word) : v &&& m &&& ~~~m = 0 := by simp [BitVec.and_assoc]

theorem State.Inv.storeReg {s : State} (h : s.Inv) (r : Reg) (v : Word) : (s.storeReg r v).Inv := by
  cases r
  case cmd =>
    cases herr : s.status.err
    · rw [storeReg_cmd_of_noErr herr]
      exact { h.withStatus (h.statusConsistent.accept herr) with }
    · rw [storeReg_cmd_of_err herr]
      exact h.withStatus h.statusConsistent.ignored
  case status => exact h.withStatus (h.statusConsistent.writeOneToClear v)
  case cfg0 => exact { h with cfg0Reserved := and_mask_and_not v _ }
  case cfg2 => exact { h with cfg2Reserved := and_mask_and_not v _ }
  all_goals exact { h with }

theorem State.Inv.writeReg {s : State} (h : s.Inv) (r : Reg) (v : Word) : (s.writeReg r v).Inv := by
  unfold State.writeReg
  split
  · exact h.withStatus h.statusConsistent.ignored
  · exact h.storeReg r v

@[simp] theorem writeReg_params (s : State) (r : Reg) (v : Word) : (s.writeReg r v).params = s.params := by
  have hstore : (s.storeReg r v).params = s.params := by
    cases r
    case cmd => cases herr : s.status.err <;> simp [State.storeReg, herr]
    all_goals rfl
  unfold State.writeReg
  split
  · rfl
  · exact hstore

/-! ## Commands keep the invariant -/

/-- A CU inside the picture is inside the bitmap: the picture is no larger than MAX_PIC_W x MAX_PIC_H (R55). -/
theorem codedExists_cuEffect {p : Pass} {s : State} (h : s.Inv) (hruns : cuFault p s = none) :
    ∀ b ∈ (cuEffect p s).coded, b.1 < s.params.maxPicH / 4 ∧ b.2 < s.params.maxPicW / 4 := by
  obtain ⟨hcfg, hgeo, -⟩ := checks_of_cuFault (.inl hruns)
  obtain ⟨-, hwidth, hheight⟩ := cfgDF_iff.1 hcfg
  obtain ⟨hcol, hrow, hcols, hrows⟩ := cuCol_cuRow hgeo
  obtain ⟨-, -, -, -, -, -, -, -, -, -, hright, hbottom⟩ := cuGeometry_iff.1 hgeo
  simp only [State.blockOperands] at hcol hrow hcols hrows
  intro b hb
  rcases Coded.mem_mark.1 hb with hb | hb
  · omega
  · exact h.codedExists b hb

theorem codedExists_commandEffect {i : Instr} {s : State} (h : s.Inv) (hruns : commandFault i s = none) :
    ∀ b ∈ (commandEffect i s).coded, b.1 < s.params.maxPicH / 4 ∧ b.2 < s.params.maxPicW / 4 := by
  cases i
  case dfPassBegin => nofun
  case dfCuHor | dfCuVer => exact codedExists_cuEffect h hruns
  all_goals exact h.codedExists

theorem wf_commandEffect_coded {s : State} (h : s.coded.wf) (i : Instr) : (commandEffect i s).coded.wf := by
  cases i
  case dfPassBegin => exact .nil
  case dfCuHor | dfCuVer => exact Coded.wf_mark h _ _ _ _
  all_goals exact h

theorem memExists_commandEffect {i : Instr} {s : State} (h : s.Inv) (hruns : commandFault i s = none) :
    ∀ c ∈ (commandEffect i s).mem, c.1 < s.params.memBytes := by
  intro c hc
  rcases mem_commandEffect hc with ⟨a, ha, hc⟩ | hc
  · have := commandWrites_inRange hruns a ha
    omega
  · exact h.memExists c hc

theorem State.Inv.commandEffect {i : Instr} {s : State} (h : s.Inv) (hruns : commandFault i s = none) :
    (commandEffect i s).Inv := by
  rw [commandEffect_shape]
  exact
    { h with
      memCanonical := wf_commandEffect h.memCanonical i
      memExists := memExists_commandEffect h hruns
      codedCanonical := wf_commandEffect_coded h.codedCanonical i
      codedExists := codedExists_commandEffect h hruns }

theorem State.Inv.takeFault {s : State} (h : s.Inv) (e : ErrCode) : (s.takeFault e).Inv :=
  h.withStatus (.fault _ e _)

theorem State.Inv.exec {i : Instr} {s t : State} (h : s.Inv) (hexec : exec i s = .next t) : t.Inv := by
  rcases exec_cases hexec with ⟨e, -, rfl⟩ | ⟨hruns, rfl⟩
  · exact h.takeFault e
  · have heffect := h.commandEffect hruns
    exact heffect.withStatus heffect.statusConsistent.complete

@[simp] theorem commandEffect_params (i : Instr) (s : State) : (commandEffect i s).params = s.params := by
  rw [commandEffect_shape]

theorem exec_params {i : Instr} {s t : State} (h : exec i s = .next t) : t.params = s.params := by
  rcases exec_cases h with ⟨e, -, rfl⟩ | ⟨-, rfl⟩ <;> simp

/-! ## RESET keeps the invariant -/

/-- The write set of a running command lies inside data memory (R75). -/
theorem lt_memBytes_of_mem_pendingWrites {s : State} {a : Nat} (h : a ∈ s.pendingWrites) : a < s.params.memBytes := by
  obtain ⟨i, -, hruns, ha⟩ := mem_pendingWrites.1 h
  obtain ⟨w, hw, hlow, hhigh⟩ := mem_bytesFrom.1 ha
  have := commandWrites_inRange hruns w hw
  omega

theorem resetBlock_mem (s : State) :
    s.resetBlock.mem = if s.status.busy then freeBytes s.abandoned s.mem s.pendingWrites else s.mem := rfl

theorem State.Inv.resetBlock {s : State} (h : s.Inv) : s.resetBlock.Inv := by
  refine { inv_resetWith (m := s.resetBlock.mem) h.paramsWf ?_ ?_ with }
  · rw [resetBlock_mem]
    split
    · exact wf_freeBytes h.memCanonical _ _
    · exact h.memCanonical
  · intro c hc
    rw [resetBlock_mem] at hc
    split at hc
    · rcases mem_freeBytes hc with hc | hc
      · exact lt_memBytes_of_mem_pendingWrites hc
      · exact h.memExists c hc
    · exact h.memExists c hc

/-! ## What a step can do (R292) -/

/-- Everything a move can do that ends in a next state: what the host writes and reads, RESET, and the engine's turn. -/
inductive State.Moves (s : State) : State → Prop
  | writeReg (r : Reg) (v : Word) : s.Moves (s.writeReg r v)
  | hostReads (l : List HostRead) : s.Moves { s with hostReads := l }
  | memWrite (a : Nat) (v : Byte) (h : a < s.params.memBytes) : s.Moves { s with mem := s.mem.write a v }
  | memWrite16 (a : Nat) (v : BitVec 16) (h : a + 1 < s.params.memBytes) :
      s.Moves { s with mem := s.mem.write16 a v.toNat }
  | reset : s.Moves s.resetBlock
  | idle : s.Moves s
  | exec (i : Instr) {t : State} (h : exec i s = .next t) : s.Moves t
  | illegal : s.Moves (s.takeFault .illegalCmd)

theorem moves_of_engineTurn {s t : State} (h : s.engineTurn = .next t) : s.Moves t := by
  unfold State.engineTurn State.engineStep at h
  split at h
  · split at h
    · exact .exec _ h
    · cases h; exact .illegal
  · cases h; exact .idle

theorem moves_of_make {s t : State} {mv : Move} (h : s.make mv = .next t) : s.Moves t := by
  cases mv with
  | regWrite width off v =>
    simp only [State.make, State.hostRegWrite] at h
    split at h <;> cases h
    exact .writeReg _ v
  | regRead width off =>
    simp only [State.make, State.hostRegRead] at h
    split at h <;> cases h
    exact .hostReads _
  | memWrite a v =>
    obtain ⟨rfl, hexists, -⟩ := hostMemory_cases h
    exact .memWrite a v (hexists a (by simp))
  | memWrite16 a v =>
    obtain ⟨rfl, hexists, -⟩ := hostMemory_cases h
    exact .memWrite16 a v (hexists (a + 1) (by simp))
  | memRead a =>
    obtain ⟨rfl, -, -⟩ := hostMemory_cases h
    exact .hostReads _
  | reset => cases h; exact .reset
  | engine => exact moves_of_engineTurn h

/-- Everything a step can do: a move of a state that differs in its agenda alone. -/
theorem moves_of_step {s t : State} (h : step s = .next t) : ∃ rest, { s with agenda := rest }.Moves t := by
  cases hagenda : s.agenda with
  | nil =>
    rw [step_of_agenda_nil hagenda] at h
    exact ⟨s.agenda, moves_of_engineTurn h⟩
  | cons mv rest =>
    rw [step_of_agenda_cons hagenda] at h
    exact ⟨rest, moves_of_make h⟩

theorem State.Moves.inv {s t : State} (hmoves : s.Moves t) (h : s.Inv) : t.Inv := by
  cases hmoves with
  | writeReg r v => exact h.writeReg r v
  | hostReads l => exact h.withHostReads l
  | memWrite a v ha =>
    refine h.withMem (Memory.wf_write h.memCanonical a v) fun c hc => ?_
    rcases Memory.mem_write hc with ⟨rfl, -⟩ | hc
    · exact ha
    · exact h.memExists c hc
  | memWrite16 a v ha =>
    refine h.withMem (Memory.wf_write16 h.memCanonical a _) fun c hc => ?_
    rcases Memory.mem_write16 hc with hc | hc | hc
    · omega
    · omega
    · exact h.memExists c hc
  | reset => exact h.resetBlock
  | idle => exact h
  | exec i hexec => exact h.exec hexec
  | illegal => exact h.takeFault _

theorem State.Moves.params {s t : State} (hmoves : s.Moves t) : t.params = s.params := by
  cases hmoves with
  | writeReg r v => exact writeReg_params s r v
  | exec i hexec => exact exec_params hexec
  | _ => rfl

/-! ## The address sets of the rules are those of the model (R71): blocks (R149, R160) -/

theorem asr_eq_div (a : Int) (n : Nat) : asr a n = a / 2 ^ n := by simp [asr]

@[simp] theorem shiftX_eq_ws (s : State) : Spec.shiftX s = s.ws := by
  by_cases h : s.chromaFmt = 1 <;> simp [Spec.shiftX, State.ws, h]

@[simp] theorem shiftY_eq_hs (s : State) : Spec.shiftY s = s.hs := rfl

theorem mem_blockAddrs {base stride : Int} {w h : Nat} {a : Int} :
    a ∈ blockAddrs base stride w h ↔ ∃ r c : Nat, r < h ∧ c < w ∧ a = base + 2 * ((r : Int) * stride + c) := by
  simp only [blockAddrs, List.mem_map, Prod.exists, mem_raster, sampleAddr, and_assoc, eq_comm (b := a)]

theorem mem_blockAddrs_iff_block {s : State} {base stride a : Int} :
    a ∈ blockAddrs base stride (s.count 8) (s.count 9) ↔ Spec.Block s base stride a := mem_blockAddrs

/-! ## Windows (R149, R156) -/

theorem mem_axisReads {g : Filter} {pos x : Int} {phase n : Nat} :
    x ∈ axisReads g pos phase n ↔
      if phase = 0 then pos ≤ x ∧ x ≤ pos + n - 1
      else pos - g.lead ≤ x ∧ x ≤ pos + n - 1 + ((g.taps : Int) - 1 - g.lead) := by
  unfold axisReads
  split_ifs <;> simp only [List.mem_map, List.mem_range]
  · refine ⟨?_, fun h => ⟨(x - pos).toNat, by omega, by omega⟩⟩
    rintro ⟨i, hi, rfl⟩
    omega
  · refine ⟨?_, fun h => ⟨(x - (pos - g.lead)).toNat, by omega, by omega⟩⟩
    rintro ⟨i, hi, rfl⟩
    omega

theorem mem_predReads {s : State} {q : Prediction} {a : Int} :
    a ∈ s.predReads q ↔ ∃ x y : Int,
      x ∈ axisReads (s.filterOf q) (s.positionOf q).xi (s.positionOf q).fx q.w ∧
      y ∈ axisReads (s.filterOf q) (s.positionOf q).yi (s.positionOf q).fy q.h ∧
      a = q.refBase + 2 * (y * q.refStride + x) := by
  simp only [State.predReads, List.mem_flatMap, List.mem_map, sampleAddr]
  constructor
  · rintro ⟨y, hy, x, hx, rfl⟩
    exact ⟨x, y, hx, hy, rfl⟩
  · rintro ⟨x, y, hx, hy, rfl⟩
    exact ⟨y, hy, x, hx, rfl⟩

theorem lumaSplit_eq (x mv : Int) : lumaSplit x mv = (x + mv / 4, (4 * (mv % 4)).toNat) := by
  simp only [lumaSplit, splitAt, asr, shl, lowBits, Prod.mk.injEq]
  norm_num
  omega

theorem chromaSplit_eq (shift : Nat) (x mv : Int) :
    chromaSplit shift x mv = ((32 * x + mv * 2 ^ (3 - shift)) / 32, ((32 * x + mv * 2 ^ (3 - shift)) % 32).toNat) := by
  simp [chromaSplit, splitAt, asr, shl, lowBits, mul_comm x 32]

theorem mem_axisReads_luma {p : Config.Params} {c mv x : Int} {n : Nat} :
    x ∈ axisReads (lumaFilter p) (lumaSplit c mv).1 (lumaSplit c mv).2 n ↔
      if 4 * (mv % 4) = 0 then c + mv / 4 ≤ x ∧ x ≤ c + mv / 4 + n - 1
      else c + mv / 4 - 3 ≤ x ∧ x ≤ c + mv / 4 + n - 1 + 4 := by
  have hphase : (4 * (mv % 4)).toNat = 0 ↔ 4 * (mv % 4) = 0 := by omega
  simp only [mem_axisReads, lumaSplit_eq, lumaFilter, hphase]
  norm_num

theorem mem_axisReads_chroma {p : Config.Params} {shift : Nat} {c mv x : Int} {n : Nat} :
    x ∈ axisReads (chromaFilter p) (chromaSplit shift c mv).1 (chromaSplit shift c mv).2 n ↔
      if (32 * c + mv * 2 ^ (3 - shift)) % 32 = 0 then
        (32 * c + mv * 2 ^ (3 - shift)) / 32 ≤ x ∧ x ≤ (32 * c + mv * 2 ^ (3 - shift)) / 32 + n - 1
      else
        (32 * c + mv * 2 ^ (3 - shift)) / 32 - 1 ≤ x ∧ x ≤ (32 * c + mv * 2 ^ (3 - shift)) / 32 + n - 1 + 2 := by
  have hphase (b : Int) : (b % 32).toNat = 0 ↔ b % 32 = 0 := by omega
  simp only [mem_axisReads, chromaSplit_eq, chromaFilter, hphase]
  norm_num

/-- The read set of a prediction is the window of the rules. -/
theorem mem_predReads_iff_window {s : State} {q : Prediction} {a : Int} : a ∈ s.predReads q ↔ Spec.Window s q a := by
  rw [mem_predReads]
  unfold Spec.Window State.positionOf State.filterOf
  cases q.chroma
  · simp only [Bool.false_eq_true, if_false, mem_axisReads_luma]
  · simp only [if_true, mem_axisReads_chroma, shiftX_eq_ws, shiftY_eq_hs]

/-! ## The lines of DF_EDGE_LUMA and DF_EDGE_CHROMA (R200, R202) -/

/-- The distances across the edge of the samples a line writes. -/
def writtenAcross (luma : Bool) : List Int := if luma then [-2, -1, 0, 1] else [-1, 0]

theorem mem_edgeLine_reads {s : State} {luma : Bool} {bd k : Nat} {a : Int} :
    a ∈ (s.edgeLine luma bd k).reads ↔
      ∃ t ∈ [-2, -1, 0, 1], a = s.u32 0 + 2 * ((k : Int) * s.s32 2 + t * s.s32 1) := by
  simp only [EdgeLine.reads, State.edgeLine, State.edgeOperands, List.mem_cons, List.not_mem_nil, or_false,
    exists_eq_or_imp, exists_eq_left]
  ring_nf

theorem mem_edgeLine_writes {s : State} {luma : Bool} {bd k : Nat} {a : Int} :
    a ∈ (s.edgeLine luma bd k).writes ↔
      ∃ t ∈ writtenAcross luma, a = s.u32 0 + 2 * ((k : Int) * s.s32 2 + t * s.s32 1) := by
  cases luma
  · simp only [EdgeLine.writes, State.edgeLine, State.edgeOperands, writtenAcross, Bool.false_eq_true, if_false,
      List.mem_cons, List.not_mem_nil, or_false, exists_eq_or_imp, exists_eq_left]
    ring_nf
  · exact mem_edgeLine_reads

/-- The samples the lines take, given the distances across the edge of those one line takes. -/
theorem mem_edgeLines_flatMap {f : EdgeLine → List Int} {s : State} {luma : Bool} {bd : Nat} {across : List Int} {a : Int}
    (hf : ∀ k, a ∈ f (s.edgeLine luma bd k) ↔
      ∃ t ∈ across, a = s.u32 0 + 2 * ((k : Int) * s.s32 2 + t * s.s32 1)) :
    a ∈ (s.edgeLines luma bd).flatMap f ↔ Spec.EdgeSample s across a := by
  simp only [State.edgeLines, List.mem_flatMap, List.mem_map, List.mem_range, exists_exists_and_eq_and, hf]
  rfl

/-! ## The lines of DF_CU_HOR and DF_CU_VER (R210 to R212) -/

/-- The address of the sample at a place along and across the edges of a pass. -/
def crossAddr (p : Pass) (base stride along across : Int) : Int :=
  match p with
  | .hor => sampleAddr base stride along across
  | .ver => sampleAddr base stride across along

/-- The samples `f` takes of a line of a pass are those at some distances across the edge, for a luma (`true`) and for a
chroma line. -/
def TakesAcross (p : Pass) (f : EdgeLine → List Int) (dist : Bool → List Int) : Prop :=
  ∀ (luma : Bool) (base stride along across a : Int) (st bd : Nat),
    a ∈ f (crossLine p luma base stride along across st bd) ↔
      ∃ t ∈ dist luma, a = crossAddr p base stride along (across + t)

theorem takesAcross_reads (p : Pass) : TakesAcross p EdgeLine.reads fun _ => [-2, -1, 0, 1] := by
  intro luma base stride along across a st bd
  cases p <;> simp [EdgeLine.reads, crossLine, crossAddr]

theorem takesAcross_writes (p : Pass) : TakesAcross p EdgeLine.writes writtenAcross := by
  intro luma base stride along across a st bd
  cases luma
  · cases p <;> simp [EdgeLine.writes, crossLine, crossAddr, writtenAcross]
  · exact takesAcross_reads p true base stride along across a st bd

theorem exists_chromaPlane {P : ChromaPlane → Prop} : (∃ pl, P pl) ↔ P .cb ∨ P .cr := by
  constructor
  · rintro ⟨pl, h⟩
    cases pl
    · exact .inl h
    · exact .inr h
  · rintro (h | h) <;> exact ⟨_, h⟩

/-- The samples of a CU's edge (R210 to R212) as the model names their places. -/
theorem cuSample_iff {s : State} {p : Pass} {luma chroma : List Int} {a : Int} :
    Spec.CuSample s p luma chroma a ↔ s.edgeFiltered p = true ∧ ∃ k < s.segments p,
      (∃ l < 4, ∃ t ∈ luma,
        a = crossAddr p (zext32 s.picYBase) (zext32 s.picYStride) (s.alongOf p + 4 * k + (l : Nat)) (s.acrossOf p + t)) ∨
      s.hasChroma = true ∧ ∃ pl, ∃ l < 4 / 2 ^ s.alongShift p, ∃ t ∈ chroma,
        a = crossAddr p (s.picChromaBase pl) (zext32 s.picCStride)
          (asr (s.alongOf p) (s.alongShift p) + ((4 / 2 ^ s.alongShift p : Nat) : Int) * (k : Nat) + (l : Nat))
          (asr (s.acrossOf p) (s.acrossShift p) + t) := by
  simp only [Spec.CuSample, shiftX_eq_ws, shiftY_eq_hs, hasChroma_iff, asr_eq_div, exists_chromaPlane, or_and_right,
    exists_or, exists_eq_left]
  cases p <;> rfl

theorem mem_lumaLines_flatMap {f : EdgeLine → List Int} {dist : Bool → List Int} {s : State} {p : Pass} {a : Int}
    (hf : TakesAcross p f dist) (k st : Nat) :
    a ∈ (s.lumaLines p k st).flatMap f ↔ ∃ l < 4, ∃ t ∈ dist true,
      a = crossAddr p (zext32 s.picYBase) (zext32 s.picYStride) (s.alongOf p + 4 * k + (l : Nat)) (s.acrossOf p + t) := by
  simp only [State.lumaLines, List.mem_flatMap, List.mem_map, List.mem_range, exists_exists_and_eq_and, hf _ _ _ _ _ a]

theorem mem_chromaLines_flatMap {f : EdgeLine → List Int} {dist : Bool → List Int} {s : State} {p : Pass} {a : Int}
    (hf : TakesAcross p f dist) (pl : ChromaPlane) (k st : Nat) :
    a ∈ (s.chromaLines p pl k st).flatMap f ↔ ∃ l < 4 / 2 ^ s.alongShift p, ∃ t ∈ dist false,
      a = crossAddr p (s.picChromaBase pl) (zext32 s.picCStride)
        (asr (s.alongOf p) (s.alongShift p) + ((4 / 2 ^ s.alongShift p : Nat) : Int) * (k : Nat) + (l : Nat))
        (asr (s.acrossOf p) (s.acrossShift p) + t) := by
  simp only [State.chromaLines, List.mem_flatMap, List.mem_map, List.mem_range, exists_exists_and_eq_and, hf _ _ _ _ _ a]

/-- The samples the lines of a CU's edge take, given the distances across the edge of those one line takes. -/
theorem mem_cuLines_flatMap {f : EdgeLine → List Int} {dist : Bool → List Int} {s : State} {p : Pass} {a : Int}
    (hf : TakesAcross p f dist) :
    a ∈ (s.cuLines p).flatMap f ↔ Spec.CuSample s p (dist true) (dist false) a := by
  rw [cuSample_iff, State.cuLines]
  cases s.edgeFiltered p
  · simp
  · simp only [if_true, true_and, List.flatMap_assoc, List.mem_flatMap (f := fun k => (s.segLines p k).flatMap f),
      List.mem_range]
    refine exists_congr fun k => and_congr_right fun _ => ?_
    rw [State.segLines, List.flatMap_append, List.mem_append, mem_lumaLines_flatMap hf]
    refine or_congr_right ?_
    cases s.hasChroma
    · simp
    · simp only [if_true, true_and, List.flatMap_append, List.mem_append, mem_chromaLines_flatMap hf, exists_chromaPlane]

/-! ## The planes of MC_BLOCK (R115, R170) -/

theorem specMvClip_eq (s : State) (mv : Mv) : Spec.mvClip s mv = s.mvClip mv := by
  simp [Spec.mvClip, State.mvClip, clipComponent, State.maxCu, State.blockOperands]

/-- A plane of MC_BLOCK as the model names its parts. -/
def State.specPlane (s : State) (p : BlockPlane) : Spec.Plane :=
  { dst := s.dstBase p, dstStride := s.dstStride p, w := s.planeW p, h := s.planeH p,
    pred0 := s.blockPrediction false p, pred1 := s.blockPrediction true p }

theorem lumaPlane_eq (s : State) : Spec.lumaPlane s = s.specPlane .luma := by
  simp only [Spec.lumaPlane, specMvClip_eq]
  rfl

theorem chromaPlane_eq (s : State) (pl : ChromaPlane) :
    Spec.chromaPlane s (s.dstBase (.chroma pl)) (s.list0.base (.chroma pl)) (s.list1.base (.chroma pl)) =
      s.specPlane (.chroma pl) := by
  simp only [Spec.chromaPlane, specMvClip_eq, shiftX_eq_ws, shiftY_eq_hs, ← asr_eq_div]
  rfl

/-- The planes of the rules are the model's, in its order. -/
theorem planes_eq (s : State) : Spec.planes s = s.blockPlanes.map s.specPlane := by
  have hcb := chromaPlane_eq s .cb
  have hcr := chromaPlane_eq s .cr
  simp only [RefList.base, State.dstBase, State.list0, State.list1] at hcb hcr
  by_cases h : s.chromaFmt = 0 <;>
    simp [Spec.planes, State.blockPlanes, State.hasChroma, h, lumaPlane_eq, hcb, hcr]

theorem mem_blockWrites_iff {s : State} {a : Int} :
    a ∈ s.blockWrites ↔ ∃ p ∈ Spec.planes s, ∃ r c : Nat, r < p.h ∧ c < p.w ∧ a = p.addr r c := by
  simp only [planes_eq, State.blockWrites, List.mem_flatMap, List.mem_map, exists_exists_and_eq_and, mem_blockAddrs]
  rfl

theorem false_mem_lists_iff {m : PredMode} : false ∈ m.lists ↔ m ≠ .l1 := by cases m <;> decide

theorem true_mem_lists_iff {m : PredMode} : true ∈ m.lists ↔ m ≠ .l0 := by cases m <;> decide

theorem mem_blockReads_iff {s : State} {a : Int} :
    a ∈ s.blockReads ↔ ∃ p ∈ Spec.planes s,
      s.predMode ≠ .l1 ∧ Spec.Window s p.pred0 a ∨ s.predMode ≠ .l0 ∧ Spec.Window s p.pred1 a := by
  simp only [planes_eq, State.blockReads, List.mem_flatMap, List.mem_map, exists_exists_and_eq_and,
    mem_predReads_iff_window, Bool.exists_bool, false_mem_lists_iff, true_mem_lists_iff, and_or_left, exists_or,
    and_left_comm (b := s.predMode ≠ _), exists_and_left]
  rfl

/-! ## Every command -/

/-- The samples a command writes are those of the rules (R71). -/
theorem mem_commandWrites_iff {i : Instr} {s : State} {a : Int} : a ∈ commandWrites i s ↔ Spec.Writes i s a := by
  cases i
  case mcPredLuma | mcPredChroma | mcBiAvg => exact mem_blockAddrs_iff_block
  case mcBlock => exact mem_blockWrites_iff
  case dfEdgeLuma | dfEdgeChroma => exact mem_edgeLines_flatMap fun k => mem_edgeLine_writes
  case dfCuHor | dfCuVer => exact mem_cuLines_flatMap (takesAcross_writes _)
  all_goals exact List.mem_nil_iff a

/-- The samples a command reads are those of the rules (R71). -/
theorem mem_commandReads_iff {i : Instr} {s : State} {a : Int} : a ∈ commandReads i s ↔ Spec.Reads i s a := by
  cases i
  case mcPredLuma | mcPredChroma => exact mem_predReads_iff_window
  case mcBiAvg => exact List.mem_append.trans (or_congr mem_blockAddrs_iff_block mem_blockAddrs_iff_block)
  case mcBlock => exact mem_blockReads_iff
  case dfEdgeLuma | dfEdgeChroma => exact mem_edgeLines_flatMap fun k => mem_edgeLine_reads
  case dfCuHor | dfCuVer => exact mem_cuLines_flatMap (takesAcross_reads _)
  all_goals exact List.mem_nil_iff a

/-- The CU's column and row (R210) in a legal geometry, where X and Y are not negative. -/
theorem cuCol_cuRow_eq_div {s : State} (h : s.cuGeometry = true) :
    (s.cuCol : Int) = s.s32 4 / 4 ∧ (s.cuRow : Int) = s.s32 5 / 4 := by
  obtain ⟨hcol, hrow, -, -⟩ := cuCol_cuRow h
  simp only [State.blockOperands] at hcol hrow
  omega

theorem mem_cuRecords {s : State} {p : Pass} {r : Int} :
    r ∈ s.cuRecords p ↔ s.edgeFiltered p = true ∧ ∃ k < s.segments p, r = s.recP p k ∨ r = s.recQ p k := by
  unfold State.cuRecords
  cases s.edgeFiltered p <;> simp

theorem specMapRec_eq (s : State) (i j : Int) : Spec.mapRec s i j = s.mapRec i j := rfl

/-- Where the records are read (R209), they are those of the rules (R195, R210, R211). -/
theorem mem_commandRecords_iff {i : Instr} {s : State}
    (h : commandFault i s = none ∨ commandFault i s = some .tableRange) {r : Int} :
    r ∈ commandRecords i s ↔ Spec.Records i s r := by
  cases i
  case dfBs => exact List.mem_pair
  case dfCuHor | dfCuVer =>
    obtain ⟨-, hgeo, -⟩ := checks_of_cuFault h
    obtain ⟨hcol, hrow⟩ := cuCol_cuRow_eq_div hgeo
    simp only [commandRecords, Spec.Records, mem_cuRecords, specMapRec_eq, ← hcol, ← hrow]
    rfl
  all_goals exact List.mem_nil_iff r

theorem commandRecords_nonneg {i : Instr} {s : State}
    (h : commandFault i s = none ∨ commandFault i s = some .tableRange) : ∀ r ∈ commandRecords i s, 0 ≤ r := by
  intro r hr
  cases i
  case dfBs => rcases List.mem_pair.1 hr with rfl | rfl <;> exact u32_nonneg s _
  case dfCuHor | dfCuVer =>
    obtain ⟨-, -, hrecords⟩ := checks_of_cuFault h
    have := hrecords r hr
    simp only [State.inRange, Bool.and_eq_true, decide_eq_true_eq] at this
    exact this.1
  all_goals nomatch hr

/-- A command whose checks hold reads inside data memory (R75). -/
theorem commandReads_inRange {i : Instr} {s : State} (h : commandFault i s = none) :
    ∀ a ∈ commandReads i s, 0 ≤ a ∧ a + 2 ≤ s.params.memBytes := by
  cases i
  case nop | mcMvClip | dfBs | dfQpcCb | dfQpcCr | dfPassBegin => nofun
  all_goals
    have hm := firstFault_eq_none.1 h
    simp only [List.forall_mem_cons, Bool.and_eq_true, allInRange_iff] at hm
  case mcPredLuma | mcPredChroma => obtain ⟨-, -, -, ⟨hreads, -⟩, -⟩ := hm; exact hreads
  case mcBiAvg => obtain ⟨-, -, ⟨hreads, -⟩, -⟩ := hm; exact hreads
  case mcBlock => obtain ⟨-, -, -, -, ⟨hreads, -⟩, -⟩ := hm; exact hreads
  case dfEdgeLuma | dfEdgeChroma => obtain ⟨-, -, -, hreads, -⟩ := hm; exact hreads
  case dfCuHor | dfCuVer => obtain ⟨-, -, -, ⟨-, hreads⟩, -⟩ := hm; exact hreads

/-! ## What a command leaves of data memory (R71, R252) -/

/-- A byte outside the samples an effect writes reads as before. -/
theorem read_commandEffect_ne {i : Instr} {s : State} {x : Nat}
    (h : ∀ a ∈ commandWrites i s, x ≠ a.toNat ∧ x ≠ a.toNat + 1) :
    (commandEffect i s).mem.read x = s.mem.read x := by
  cases i
  case nop | mcMvClip | dfBs | dfQpcCb | dfQpcCr | dfPassBegin => rfl
  case mcPredLuma | mcPredChroma | mcBiAvg =>
    exact Memory.read_writeAll_ne fun w hw => h w.1 (fst_mem_blockAddrs hw)
  case mcBlock => exact Memory.read_writeAll_ne fun w hw => h w.1 (fst_mem_blockWrites hw)
  case dfEdgeLuma | dfEdgeChroma | dfCuHor | dfCuVer => exact read_filterLines_ne h

/-- A command without a sample to write leaves data memory whole. -/
theorem commandEffect_mem {i : Instr}
    (h : i = .nop ∨ i = .mcMvClip ∨ i = .dfBs ∨ i = .dfQpcCb ∨ i = .dfQpcCr ∨ i = .dfPassBegin) (s : State) :
    (commandEffect i s).mem = s.mem := by
  rcases h with rfl | rfl | rfl | rfl | rfl | rfl <;> rfl

/-! ## The host's accesses (R70, R84, R130) -/

theorem claimed_iff {s : State} {a : Nat} :
    s.claimed a = true ↔ s.status.busy = true ∧ (a ∈ s.pendingReads ∨ a ∈ s.pendingWrites) := by
  simp [State.claimed, or_comm]

theorem claimed_eq_false {s : State} {a : Nat}
    (h : s.status.busy = false ∨ ¬(a ∈ s.pendingReads ∨ a ∈ s.pendingWrites)) : s.claimed a = false := by
  rw [Bool.eq_false_iff, ne_eq, claimed_iff]
  rintro ⟨hbusy, ha⟩
  rcases h with h | h
  · simp [hbusy] at h
  · exact h ha

theorem hostMemory_of_missing {s : State} {as : List Nat} {a : Nat} (ha : a ∈ as) (h : s.params.memBytes ≤ a) (u : State) :
    s.hostMemory as u = .fault .noSuchAddress := by
  unfold State.hostMemory
  rw [if_pos]
  simp only [Bool.not_eq_true', List.all_eq_false, decide_eq_true_eq]
  exact ⟨a, ha, by omega⟩

theorem hostMemory_of_claimed {s : State} {as : List Nat} (hexists : ∀ a ∈ as, a < s.params.memBytes) {a : Nat}
    (ha : a ∈ as) (h : s.claimed a = true) (u : State) : s.hostMemory as u = .refused .hostMemoryDuty := by
  unfold State.hostMemory
  rw [if_neg (by simpa using hexists), if_pos (List.any_eq_true.2 ⟨a, ha, h⟩)]

theorem hostMemory_of_free {s : State} {as : List Nat} (hexists : ∀ a ∈ as, a < s.params.memBytes)
    (h : ∀ a ∈ as, s.claimed a = false) (u : State) : s.hostMemory as u = .next u := by
  unfold State.hostMemory
  rw [if_neg (by simpa using hexists), if_neg (by simpa using h)]

/-! ## The bytes the running command claims (R71, R282) -/

/-- The bytes from some addresses on, none of which lies below address 0. -/
theorem mem_bytesFrom_of_nonneg {n : Nat} {as : List Int} (h : ∀ a ∈ as, 0 ≤ a) {b : Nat} :
    b ∈ bytesFrom n as ↔ ∃ a ∈ as, a ≤ b ∧ (b : Int) < a + n := by
  rw [mem_bytesFrom]
  refine exists_congr fun a => and_congr_right fun ha => ?_
  have := h a ha
  omega

/-- The two bytes of each 16-bit unit. -/
theorem mem_bytesFrom_two {as : List Int} (h : ∀ a ∈ as, 0 ≤ a) {b : Nat} :
    b ∈ bytesFrom 2 as ↔ ∃ a ∈ as, (b : Int) = a ∨ (b : Int) = a + 1 := by
  rw [mem_bytesFrom_of_nonneg h]
  exact exists_congr fun a => and_congr_right fun _ => by omega

theorem mem_writtenBytes_iff {i : Instr} {s : State} (h : commandFault i s = none) {b : Nat} :
    b ∈ bytesFrom 2 (commandWrites i s) ↔ ∃ a, Spec.Writes i s a ∧ ((b : Int) = a ∨ (b : Int) = a + 1) := by
  simp only [mem_bytesFrom_two fun a ha => (commandWrites_inRange h a ha).1, mem_commandWrites_iff]

theorem mem_readBytes_iff {i : Instr} {s : State} (h : commandFault i s = none) {b : Nat} :
    b ∈ bytesFrom 2 (commandReads i s) ↔ ∃ a, Spec.Reads i s a ∧ ((b : Int) = a ∨ (b : Int) = a + 1) := by
  simp only [mem_bytesFrom_two fun a ha => (commandReads_inRange h a ha).1, mem_commandReads_iff]

theorem mem_recordBytes_iff {i : Instr} {s : State}
    (h : commandFault i s = none ∨ commandFault i s = some .tableRange) {b : Nat} :
    b ∈ bytesFrom recordBytes (commandRecords i s) ↔ ∃ r, Spec.Records i s r ∧ r ≤ b ∧ (b : Int) < r + 12 := by
  simp only [mem_bytesFrom_of_nonneg (commandRecords_nonneg h), mem_commandRecords_iff h]
  rfl

theorem mem_pendingWrites_iff_spec {s : State} {b : Nat} :
    b ∈ s.pendingWrites ↔
      ∃ i, decode s.pending = .ok i ∧ commandFault i s = none ∧
        ∃ a, Spec.Writes i s a ∧ ((b : Int) = a ∨ (b : Int) = a + 1) := by
  rw [mem_pendingWrites]
  exact exists_congr fun i => and_congr_right fun _ => and_congr_right fun h => mem_writtenBytes_iff h

theorem mem_pendingReads_iff_spec {s : State} {b : Nat} :
    b ∈ s.pendingReads ↔
      ∃ i, decode s.pending = .ok i ∧
        ((commandFault i s = none ∧ ∃ a, Spec.Reads i s a ∧ ((b : Int) = a ∨ (b : Int) = a + 1)) ∨
         ((commandFault i s = none ∨ commandFault i s = some .tableRange) ∧
           ∃ r, Spec.Records i s r ∧ r ≤ b ∧ (b : Int) < r + 12)) := by
  rw [mem_pendingReads]
  exact exists_congr fun i => and_congr_right fun _ =>
    or_congr (and_congr_right fun h => mem_readBytes_iff h) (and_congr_right fun h => mem_recordBytes_iff h)

/-! ## The statement of tier 3 -/

/-- Settles O25: a step is a move, and each kind of move keeps the invariant and the parameters. -/
theorem stepKeepsTheInvariant : Obligations.StepKeepsTheInvariant := by
  unfold Obligations.StepKeepsTheInvariant
  intro s t h hstep
  obtain ⟨rest, hmoves⟩ := moves_of_step hstep
  have hparams : t.params = s.params := hmoves.params
  exact ⟨hmoves.inv (h.withAgenda rest), hparams, congrArg Config.Params.implId hparams⟩

/-! ## The statements of tier 2 -/

/-- Settles O21: a fault writes STATUS alone, and an effect the samples of `Spec.Writes` alone. -/
theorem commandsWriteOnlyTheirWriteSet : Obligations.CommandsWriteOnlyTheirWriteSet := by
  unfold Obligations.CommandsWriteOnlyTheirWriteSet
  intro i s t h
  rcases exec_cases h with ⟨e, -, rfl⟩ | ⟨hruns, rfl⟩
  · simp
  · refine ⟨fun a ha => read_commandEffect_ne fun w hw => ?_, fun hfault => absurd hruns hfault,
      fun hi => commandEffect_mem hi s⟩
    have hout := ha w (mem_commandWrites_iff.1 hw)
    have hin := commandWrites_inRange hruns w hw
    omega

/-- Settles O60: the three outcomes of an access, and the address sets of the running command byte by byte. -/
theorem hostMemoryAccess : Obligations.HostMemoryAccess := by
  unfold Obligations.HostMemoryAccess
  refine ⟨fun s rest a v w => ?_, fun s b => ⟨mem_pendingWrites_iff_spec, mem_pendingReads_iff_spec⟩⟩
  intro u claimed
  have hstep (mv : Move) : step { s with agenda := mv :: rest } = u.make mv := step_of_agenda_cons rfl
  have hrefused {b : Nat} (hbusy : s.status.busy = true) (hb : claimed b) : u.claimed b = true :=
    (claimed_agenda s rest b).trans (claimed_iff.2 ⟨hbusy, hb⟩)
  have hfree {b : Nat} (hb : s.status.busy = false ∨ ¬claimed b) : u.claimed b = false :=
    (claimed_agenda s rest b).trans (claimed_eq_false hb)
  have hone (h : a < s.params.memBytes) : ∀ b ∈ [a], b < u.params.memBytes := by simpa using h
  have htwo (h : a + 1 < s.params.memBytes) : ∀ b ∈ [a, a + 1], b < u.params.memBytes := by
    simp only [List.mem_pair, forall_eq_or_imp, forall_eq]
    exact ⟨Nat.lt_of_succ_lt h, h⟩
  simp only [hstep]
  refine ⟨fun h => ?_, fun h => ?_, fun h hbusy ha => ?_, fun h hbusy ha => ?_, fun h ha hm => ?_, fun h ha hm => ?_⟩
  · exact ⟨hostMemory_of_missing (s := u) (a := a) (by simp) h _, hostMemory_of_missing (s := u) (a := a) (by simp) h _⟩
  · exact hostMemory_of_missing (s := u) (a := a + 1) (by simp) h _
  · exact ⟨hostMemory_of_claimed (hone h) (a := a) (by simp) (hrefused hbusy ha) _,
      hostMemory_of_claimed (hone h) (a := a) (by simp) (hrefused hbusy ha) _⟩
  · rcases ha with ha | ha
    · exact hostMemory_of_claimed (htwo h) (a := a) (by simp) (hrefused hbusy ha) _
    · exact hostMemory_of_claimed (htwo h) (a := a + 1) (by simp) (hrefused hbusy ha) _
  · have hfrees : ∀ b ∈ [a], u.claimed b = false := by simpa using hfree ha
    exact ⟨⟨_, hostMemory_of_free (hone h) hfrees _, Memory.read_write hm a v⟩,
      hostMemory_of_free (hone h) hfrees _⟩
  · have hfrees : ∀ b ∈ [a, a + 1], u.claimed b = false := by
      simp only [List.mem_pair, forall_eq_or_imp, forall_eq]
      exact ⟨hfree (ha.imp_right And.left), hfree (ha.imp_right And.right)⟩
    exact ⟨_, hostMemory_of_free (htwo h) hfrees _, Memory.read_write16 hm a w⟩

/-! ## The statement of tier 1 -/

/-- Settles O59: the bytes by `Memory.read_write16`, the value by the read-back of a 16-bit write. -/
theorem littleEndianAccess : Obligations.LittleEndianAccess := by
  unfold Obligations.LittleEndianAccess
  intro m a v hm
  refine ⟨by simp [Memory.read_write16 hm], by simp [Memory.read_write16 hm],
    fun b hlow hhigh => Memory.read_write16_ne hlow hhigh, ?_, rfl, Memory.wf_write16 hm _ _, ?_⟩
  · rw [Memory.read16_write16_same hm]
    omega
  · rfl

end Sys2Proof.Machine


/-! # CMD words (30_encoding.md): a word and the fields of the command it stands for, and the statements about the decoder -/

namespace Sys2Proof

/-! ## A word is a command's where its fields are (R103, R104) -/

theorem decode_encode (i : Instr) : decode (encode i) = .ok i :=
  (Laws.roundTrip_of_wf i (by cases i <;> rfl)).2

/-- The decoder accepts exactly the words whose fields are a command's. -/
theorem decode_eq_ok_iff_fields {w : Word} {i : Instr} : decode w = .ok i ↔ CmdWord.ofWord w = i.fields := by
  constructor
  · intro h
    simp only [decode] at h
    split at h
    · rename_i hrsv
      obtain ⟨hopc, hplane⟩ := fields_of_lookupOpcode h
      rw [CmdWord.mk.injEq]
      exact ⟨hrsv.trans (fields_rsv i).symm, hplane, hopc⟩
    · cases h
  · intro h
    rw [← CmdWord.toWord_ofWord w, h]
    exact decode_encode i

theorem ofWord_eq_fields_iff {w : Word} {i : Instr} : CmdWord.ofWord w = i.fields ↔ w = encode i := by
  constructor
  · intro h
    rw [← CmdWord.toWord_ofWord w, h, encode]
  · rintro rfl
    exact CmdWord.ofWord_toWord i.fields

theorem decode_eq_ok_iff {w : Word} {i : Instr} : decode w = .ok i ↔ w = encode i :=
  decode_eq_ok_iff_fields.trans ofWord_eq_fields_iff

/-! ## The legal words (R103) -/

/-- R103, third kind, as a proposition. -/
theorem CmdWord.planeLegal_iff {c : CmdWord} :
    c.planeLegal = true ↔ (c.opc = 0x13 ∧ (c.plane = 1 ∨ c.plane = 2)) ∨ (c.opc ≠ 0x13 ∧ c.plane = 0) := by
  by_cases h : c.opc = 0x13#8 <;> simp [CmdWord.planeLegal, h]

theorem CmdWord.wf_iff {c : CmdWord} :
    c.wf = true ↔ knownOpcodes.contains c.opc = true ∧ c.rsv = 0 ∧
      ((c.opc = 0x13 ∧ (c.plane = 1 ∨ c.plane = 2)) ∨ (c.opc ≠ 0x13 ∧ c.plane = 0)) := by
  simp only [CmdWord.wf, CmdWord.opcodeKnown, CmdWord.reservedZero, Bool.and_eq_true, beq_iff_eq, planeLegal_iff, and_assoc]

/-- The opcode map has a row for every known OPC and each PLANE that OPC allows. -/
theorem exists_row_of_legal : ∀ opc ∈ knownOpcodes, ∀ plane : BitVec 2,
    CmdWord.planeLegal ⟨0, plane, opc⟩ = true → ∃ row ∈ opcodeMap, row.1 = opc ∧ row.2.1 = plane := by decide

/-- The legal fields are those of the commands. -/
theorem CmdWord.wf_iff_exists_fields {c : CmdWord} : c.wf = true ↔ ∃ i : Instr, c = i.fields := by
  constructor
  · intro h
    simp only [CmdWord.wf, CmdWord.opcodeKnown, CmdWord.reservedZero, Bool.and_eq_true, beq_iff_eq,
      List.contains_iff_mem] at h
    obtain ⟨⟨hopc, hrsv⟩, hplane⟩ := h
    obtain ⟨row, hrow, hrowOpc, hrowPlane⟩ := exists_row_of_legal c.opc hopc c.plane hplane
    obtain ⟨hfieldOpc, hfieldPlane⟩ := opcodeMap_fields row hrow
    refine ⟨row.2.2, ?_⟩
    rw [CmdWord.mk.injEq]
    exact ⟨hrsv.trans (fields_rsv _).symm, hrowPlane.symm.trans hfieldPlane, hrowOpc.symm.trans hfieldOpc⟩
  · rintro ⟨i, rfl⟩
    cases i <;> rfl

theorem exists_decode_eq_ok_iff {w : Word} : (∃ i, decode w = .ok i) ↔ (CmdWord.ofWord w).wf = true := by
  simp only [decode_eq_ok_iff_fields, CmdWord.wf_iff_exists_fields]

end Sys2Proof

namespace Sys2Proof.Machine

/-- The engine step of an illegal word takes E_ILLEGAL_CMD (R103). -/
theorem engineStep_of_illegal {s : State} (h : ¬∃ i, decode s.pending = .ok i) :
    s.engineStep = .next (s.takeFault .illegalCmd) := by
  unfold State.engineStep
  cases hw : decode s.pending with
  | ok i => exact absurd ⟨i, hw⟩ h
  | error e => rfl

/-! ## The statement of tier 3 -/

/-- Settles O1: the decoder compares a word's fields, and a word is made of its fields. -/
theorem decodeAcceptsExactlyTheEncodings : Obligations.DecodeAcceptsExactlyTheEncodings := by
  unfold Obligations.DecodeAcceptsExactlyTheEncodings
  exact ⟨fun w i => decode_eq_ok_iff, rfl, rfl, rfl, rfl, rfl, rfl, rfl, rfl, rfl, rfl, rfl, rfl, rfl, rfl⟩

/-! ## The statement of tier 2 about illegal words -/

/-- Settles O2: the words that decode are those with legal fields, and any other word ends in a taken fault. -/
theorem illegalWordsFaultAndDoNothingElse : Obligations.IllegalWordsFaultAndDoNothingElse := by
  unfold Obligations.IllegalWordsFaultAndDoNothingElse
  exact ⟨fun w => exists_decode_eq_ok_iff.trans CmdWord.wf_iff, fun s h => engineStep_of_illegal h⟩

/-! ## The statement of tier 1 -/

/-- Settles O3: the legal words are the encodings of their commands, and the illegal ones are read by evaluation. -/
theorem decodeReadsTheSpecsWords : Obligations.DecodeReadsTheSpecsWords := by
  unfold Obligations.DecodeReadsTheSpecsWords
  exact ⟨decode_encode .nop, decode_encode .mcBlock, decode_encode .dfEdgeLuma, decode_encode .dfQpcCb,
    decode_encode .dfQpcCr, decode_encode .dfCuVer, rfl, rfl, rfl⟩

end Sys2Proof.Machine

/-! # The ARG registers (30_encoding.md R105 to R121): the ARGs each command reads, and that it does the same under any other
ARGs that agree on those -/

namespace Sys2Proof.Machine

/-! ## A state with other ARGs -/

/-- The state with other ARG registers. -/
def State.withArgs (s : State) (a : Vector Word 32) : State := { s with args := a }

section
variable (s : State) (a : Vector Word 32)

/-! Whatever is read of the configuration, the parameters, CODED and data memory does not depend on the ARGs. -/

@[simp] theorem withArgs_mem : (s.withArgs a).mem = s.mem := rfl
@[simp] theorem withArgs_coded : (s.withArgs a).coded = s.coded := rfl
@[simp] theorem withArgs_picYBase : (s.withArgs a).picYBase = s.picYBase := rfl
@[simp] theorem withArgs_picYStride : (s.withArgs a).picYStride = s.picYStride := rfl
@[simp] theorem withArgs_picCStride : (s.withArgs a).picCStride = s.picCStride := rfl
@[simp] theorem withArgs_picChromaBase : (s.withArgs a).picChromaBase = s.picChromaBase := rfl
@[simp] theorem withArgs_bitDepthY : (s.withArgs a).bitDepthY = s.bitDepthY := rfl
@[simp] theorem withArgs_bitDepthC : (s.withArgs a).bitDepthC = s.bitDepthC := rfl
@[simp] theorem withArgs_hasChroma : (s.withArgs a).hasChroma = s.hasChroma := rfl
@[simp] theorem withArgs_ws : (s.withArgs a).ws = s.ws := rfl
@[simp] theorem withArgs_hs : (s.withArgs a).hs = s.hs := rfl
@[simp] theorem withArgs_picW : (s.withArgs a).picW = s.picW := rfl
@[simp] theorem withArgs_picH : (s.withArgs a).picH = s.picH := rfl
@[simp] theorem withArgs_maxCu : (s.withArgs a).maxCu = s.maxCu := rfl
@[simp] theorem withArgs_cfgPic : (s.withArgs a).cfgPic = s.cfgPic := rfl
@[simp] theorem withArgs_cfgBlk : (s.withArgs a).cfgBlk = s.cfgBlk := rfl
@[simp] theorem withArgs_cfgDF : (s.withArgs a).cfgDF = s.cfgDF := rfl
@[simp] theorem withArgs_cuBasesEven : (s.withArgs a).cuBasesEven = s.cuBasesEven := rfl
@[simp] theorem withArgs_inRange : (s.withArgs a).inRange = s.inRange := rfl
@[simp] theorem withArgs_allInRange : (s.withArgs a).allInRange = s.allInRange := rfl
@[simp] theorem withArgs_predReads : (s.withArgs a).predReads = s.predReads := rfl
@[simp] theorem withArgs_predict : (s.withArgs a).predict = s.predict := rfl
@[simp] theorem withArgs_bs : (s.withArgs a).bs = s.bs := rfl
@[simp] theorem withArgs_thr : (s.withArgs a).thr = s.thr := rfl
@[simp] theorem withArgs_qpc : (s.withArgs a).qpc = s.qpc := rfl
@[simp] theorem withArgs_qpcClip : (s.withArgs a).qpcClip = s.qpcClip := rfl
@[simp] theorem withArgs_mapRec : (s.withArgs a).mapRec = s.mapRec := rfl
@[simp] theorem withArgs_alongShift : (s.withArgs a).alongShift = s.alongShift := rfl
@[simp] theorem withArgs_acrossShift : (s.withArgs a).acrossShift = s.acrossShift := rfl

@[simp] theorem setResult_withArgs (i : Fin 4) (v : Int) :
    (s.withArgs a).setResult i v = (s.setResult i v).withArgs a := rfl

end

/-! ## The operands, where the ARGs agree (R105) -/

/-- The state and the ARGs agree on some of the ARGs. -/
def State.ArgsAgree (s : State) (a : Vector Word 32) (ks : List (Fin 32)) : Prop := ∀ k ∈ ks, a[k] = s.args[k]

/-- A write of one ARG leaves all that a list names, where it does not name that ARG: for a list of literals, by arithmetic on the
ARG's number. -/
theorem argsAgree_set {s : State} {k : Fin 32} {ks : List (Fin 32)} (v : Word)
    (h : k ∉ ks := by simp only [List.mem_cons, List.not_mem_nil, or_false]; omega) :
    s.ArgsAgree (s.args.set k v) ks := by
  intro j hj
  have hne : j ≠ k := by
    rintro rfl
    exact h hj
  exact getElem_set_of_ne s.args hne v

theorem State.ArgsAgree.mono {s : State} {a : Vector Word 32} {ks js : List (Fin 32)} (h : s.ArgsAgree a ks)
    (hsub : js ⊆ ks) : s.ArgsAgree a js := fun k hk => h k (hsub hk)

section
variable {s : State} {a : Vector Word 32} {ks : List (Fin 32)} (h : s.ArgsAgree a ks)
include h

theorem u32_withArgs {k : Fin 32} (hk : k ∈ ks) : (s.withArgs a).u32 k = s.u32 k := congrArg zext32 (h k hk)

theorem s32_withArgs {k : Fin 32} (hk : k ∈ ks) : (s.withArgs a).s32 k = s.s32 k := congrArg sext32 (h k hk)

theorem count_withArgs {k : Fin 32} (hk : k ∈ ks) : (s.withArgs a).count k = s.count k := congrArg BitVec.toNat (h k hk)

end

section
variable {s : State} {a : Vector Word 32}

theorem predOperands_withArgs (h : s.ArgsAgree a [0, 1, 2, 3, 4, 5, 6, 7, 8, 9]) :
    (s.withArgs a).predOperands = s.predOperands := by
  simp [State.predOperands, u32_withArgs h, s32_withArgs h, count_withArgs h]

theorem biOperands_withArgs (h : s.ArgsAgree a [0, 1, 2, 3, 8, 9, 15, 16]) :
    (s.withArgs a).biOperands = s.biOperands := by
  simp [State.biOperands, u32_withArgs h, count_withArgs h]

theorem blockOperands_withArgs (h : s.ArgsAgree a [4, 5, 8, 9]) :
    (s.withArgs a).blockOperands = s.blockOperands := by
  simp [State.blockOperands, s32_withArgs h, count_withArgs h]

theorem edgeOperands_withArgs (h : s.ArgsAgree a [0, 1, 2, 3, 4]) :
    (s.withArgs a).edgeOperands = s.edgeOperands := by
  simp [State.edgeOperands, u32_withArgs h, s32_withArgs h, count_withArgs h]

theorem use0_withArgs (h : s.ArgsAgree a [10]) : (s.withArgs a).use0 = s.use0 :=
  congrArg (BitVec.getLsbD · 0) (h 10 (by simp))

theorem use1_withArgs (h : s.ArgsAgree a [10]) : (s.withArgs a).use1 = s.use1 :=
  congrArg (BitVec.getLsbD · 1) (h 10 (by simp))

end

/-! ## Doing the same under other ARGs -/

/-- A command does the same under other ARGs: its checks give the same fault, and where they hold its effect is the same. -/
def SameUnder (i : Instr) (s : State) (a : Vector Word 32) : Prop :=
  commandFault i (s.withArgs a) = commandFault i s ∧
    (commandFault i s = none → commandEffect i (s.withArgs a) = (commandEffect i s).withArgs a)

/-- Such a command ends in the same state but for the ARGs. -/
theorem SameUnder.exec {i : Instr} {s t : State} {a : Vector Word 32} (h : SameUnder i s a) (hexec : exec i s = .next t) :
    exec i (s.withArgs a) = .next (t.withArgs a) := by
  obtain ⟨hfault, heffect⟩ := h
  rcases exec_cases hexec with ⟨e, he, rfl⟩ | ⟨hruns, rfl⟩
  · exact exec_of_fault (hfault.trans he)
  · rw [exec_of_runs (hfault.trans hruns), heffect hruns]
    rfl

/-! ## The commands but MC_BLOCK -/

section
variable {s : State} {a : Vector Word 32}

theorem predFault_withArgs (h : (s.withArgs a).predOperands = s.predOperands) (chroma : Bool) {configOk : State → Bool}
    (hconfig : configOk (s.withArgs a) = configOk s) :
    predFault chroma configOk (s.withArgs a) = predFault chroma configOk s := by
  simp [predFault, State.predCommand, State.predWrites, h, hconfig]

theorem predEffect_withArgs (h : (s.withArgs a).predOperands = s.predOperands) (chroma : Bool) :
    predEffect chroma (s.withArgs a) = (predEffect chroma s).withArgs a := by
  simp only [predEffect, State.predCommand, h, withArgs_predict, withArgs_mem]
  rfl

theorem sameUnder_mcPred (h : (s.withArgs a).predOperands = s.predOperands) :
    SameUnder .mcPredLuma s a ∧ SameUnder .mcPredChroma s a :=
  ⟨⟨predFault_withArgs h false rfl, fun _ => predEffect_withArgs h false⟩,
    ⟨predFault_withArgs h true rfl, fun _ => predEffect_withArgs h true⟩⟩

theorem sameUnder_mcBiAvg (h : (s.withArgs a).biOperands = s.biOperands) : SameUnder .mcBiAvg s a := by
  have hreads : (s.withArgs a).biReads = s.biReads := by simp only [State.biReads, h]
  have hwrites : (s.withArgs a).biWrites = s.biWrites := by simp only [State.biWrites, h]
  have hsample : (s.withArgs a).biSample = s.biSample := by
    funext r c
    simp only [State.biSample, h, withArgs_mem]
  refine ⟨?_, fun _ => ?_⟩
  · simp [commandFault, faultMcBiAvg, h, hreads, hwrites]
  · simp only [commandEffect, effectMcBiAvg, h, hsample, withArgs_mem]
    rfl

theorem blockInPicture_withArgs (h : (s.withArgs a).blockOperands = s.blockOperands) :
    (s.withArgs a).blockInPicture = s.blockInPicture := by simp [State.blockInPicture, h]

theorem mvClip_withArgs (h : (s.withArgs a).blockOperands = s.blockOperands) :
    (s.withArgs a).mvClip = s.mvClip := by
  funext mv
  simp [State.mvClip, h]

theorem sameUnder_mcMvClip (h : s.ArgsAgree a [4, 5, 6, 7, 8, 9]) : SameUnder .mcMvClip s a := by
  have hblock := blockOperands_withArgs (h.mono (by decide))
  have hclipped : (s.withArgs a).clippedOperand = s.clippedOperand := by
    simp [State.clippedOperand, mvClip_withArgs hblock, s32_withArgs h]
  refine ⟨?_, fun _ => ?_⟩
  · simp [commandFault, faultMcMvClip, blockInPicture_withArgs hblock]
  · simp [commandEffect, effectMcMvClip, hclipped]

theorem sameUnder_dfBs (h : s.ArgsAgree a [0, 1]) : SameUnder .dfBs s a := by
  have hcommand : (s.withArgs a).bsCommand = s.bsCommand := by
    simp [State.bsCommand, State.bsRecords, u32_withArgs h]
  refine ⟨?_, fun _ => ?_⟩
  · simp [commandFault, faultDfBs, u32_withArgs h, hcommand]
  · simp [commandEffect, effectDfBs, hcommand]

theorem edgeLines_withArgs (h : (s.withArgs a).edgeOperands = s.edgeOperands) (luma : Bool) (bd : Nat) :
    (s.withArgs a).edgeLines luma bd = s.edgeLines luma bd := by
  have hline : (s.withArgs a).edgeLine luma bd = s.edgeLine luma bd := by
    funext k
    simp only [State.edgeLine, h]
  simp only [State.edgeLines, h, hline]

theorem edgeFault_withArgs (h : (s.withArgs a).edgeOperands = s.edgeOperands) {configOk : State → Bool}
    {lines : State → List EdgeLine} (hconfig : configOk (s.withArgs a) = configOk s)
    (hlines : lines (s.withArgs a) = lines s) : edgeFault configOk lines (s.withArgs a) = edgeFault configOk lines s := by
  simp [edgeFault, h, hlines, hconfig]

theorem edgeEffect_withArgs {lines : State → List EdgeLine} (hlines : lines (s.withArgs a) = lines s) :
    edgeEffect lines (s.withArgs a) = (edgeEffect lines s).withArgs a := by
  simp only [edgeEffect, hlines, withArgs_mem]
  rfl

theorem sameUnder_dfEdge (h : (s.withArgs a).edgeOperands = s.edgeOperands) :
    SameUnder .dfEdgeLuma s a ∧ SameUnder .dfEdgeChroma s a := by
  have hluma : (s.withArgs a).edgeLumaLines = s.edgeLumaLines := edgeLines_withArgs h true _
  have hchroma : (s.withArgs a).edgeChromaLines = s.edgeChromaLines := edgeLines_withArgs h false _
  refine ⟨⟨?_, fun _ => edgeEffect_withArgs hluma⟩, ⟨?_, fun _ => edgeEffect_withArgs hchroma⟩⟩
  · exact edgeFault_withArgs (configOk := State.cfgLuma) h rfl hluma
  · exact edgeFault_withArgs (configOk := fun s => okBD s.bitDepthC) h rfl hchroma

theorem sameUnder_dfQpc (h : s.ArgsAgree a [0]) : SameUnder .dfQpcCb s a ∧ SameUnder .dfQpcCr s a := by
  have heffect (pl : ChromaPlane) : effectDfQpc pl (s.withArgs a) = (effectDfQpc pl s).withArgs a := by
    simp [effectDfQpc, s32_withArgs h]
  exact ⟨⟨rfl, fun _ => heffect .cb⟩, ⟨rfl, fun _ => heffect .cr⟩⟩

end

/-! ## DF_CU_HOR and DF_CU_VER: of the ARGs they read the CU's place and size (R121) -/

section
variable {s : State} {a : Vector Word 32} (h : (s.withArgs a).blockOperands = s.blockOperands)
include h

theorem edgeFiltered_withArgs (p : Pass) : (s.withArgs a).edgeFiltered p = s.edgeFiltered p := by
  cases p <;> simp [State.edgeFiltered, State.cuRow, State.cuCol, h]

theorem segments_withArgs (p : Pass) : (s.withArgs a).segments p = s.segments p := by
  cases p <;> simp [State.segments, State.cuCols, State.cuRows, h]

theorem recP_withArgs (p : Pass) (k : Nat) : (s.withArgs a).recP p k = s.recP p k := by
  cases p <;> simp [State.recP, State.cuCol, State.cuRow, h]

theorem recQ_withArgs (p : Pass) (k : Nat) : (s.withArgs a).recQ p k = s.recQ p k := by
  cases p <;> simp [State.recQ, State.cuCol, State.cuRow, h]

theorem segThr_withArgs (p : Pass) (k : Nat) : (s.withArgs a).segThr p k = s.segThr p k := by
  simp [State.segThr, recP_withArgs h, recQ_withArgs h]

theorem segLines_withArgs (p : Pass) (k : Nat) : (s.withArgs a).segLines p k = s.segLines p k := by
  have halong : (s.withArgs a).alongOf p = s.alongOf p := by cases p <;> simp [State.alongOf, h]
  have hacross : (s.withArgs a).acrossOf p = s.acrossOf p := by cases p <;> simp [State.acrossOf, h]
  simp [State.segLines, State.lumaLines, State.chromaLines, segThr_withArgs h, halong, hacross]

theorem cuLines_withArgs (p : Pass) : (s.withArgs a).cuLines p = s.cuLines p := by
  simp [State.cuLines, edgeFiltered_withArgs h, segments_withArgs h, funext (segLines_withArgs h p)]

theorem cuFault_withArgs (p : Pass) : cuFault p (s.withArgs a) = cuFault p s := by
  have hgeometry : (s.withArgs a).cuGeometry = s.cuGeometry := by simp [State.cuGeometry, h]
  have hrecords : (s.withArgs a).cuRecords p = s.cuRecords p := by
    simp [State.cuRecords, edgeFiltered_withArgs h, segments_withArgs h, recP_withArgs h, recQ_withArgs h]
  have htables : (s.withArgs a).cuTablesOk p = s.cuTablesOk p := by
    simp [State.cuTablesOk, edgeFiltered_withArgs h, segments_withArgs h, segThr_withArgs h]
  simp [cuFault, hgeometry, hrecords, htables, cuLines_withArgs h]

theorem cuEffect_withArgs (p : Pass) : cuEffect p (s.withArgs a) = (cuEffect p s).withArgs a := by
  simp only [cuEffect, State.cuRow, State.cuCol, State.cuRows, State.cuCols, h, cuLines_withArgs h, withArgs_mem,
    withArgs_coded]
  rfl

theorem sameUnder_dfCu : SameUnder .dfCuHor s a ∧ SameUnder .dfCuVer s a :=
  ⟨⟨cuFault_withArgs h .hor, fun _ => cuEffect_withArgs h .hor⟩,
    ⟨cuFault_withArgs h .ver, fun _ => cuEffect_withArgs h .ver⟩⟩

end

/-! ## MC_BLOCK (R115, R170) -/

/-- The ARGs agree on all that MC_BLOCK reads of them: the block, its output and the strides, of each list that FLAGS uses its
motion, and the planes of the lists that the mode reads, those of chroma where there is chroma. -/
structure State.BlockArgsAgree (s : State) (a : Vector Word 32) : Prop where
  block : s.ArgsAgree a [1, 2, 3, 4, 5, 8, 9, 10]
  list0 : s.use0 = true → s.ArgsAgree a [0, 6, 7, 11]
  list1 : s.use1 = true → s.ArgsAgree a [12, 13, 14]
  luma1 : s.use1 = true → s.predMode ≠ .l0 → s.ArgsAgree a [19]
  chroma : s.hasChroma = true → s.ArgsAgree a [22, 23, 24, 25]
  chroma0 : s.hasChroma = true → s.use0 = true → s.ArgsAgree a [17, 18]
  chroma1 : s.hasChroma = true → s.use1 = true → s.predMode ≠ .l0 → s.ArgsAgree a [20, 21]

theorem use0_of_mode_ne_l1 {s : State} (hused : (s.use0 || s.use1) = true) (hmode : s.predMode ≠ .l1) : s.use0 = true := by
  by_contra h0
  have h1 : s.use1 = true := by simpa [h0] using hused
  exact hmode (by simp [State.predMode, h0, h1])

theorem use1_of_mode_ne_l0 {s : State} (hused : (s.use0 || s.use1) = true) (hmode : s.predMode ≠ .l0) : s.use1 = true := by
  by_contra h1
  have h0 : s.use0 = true := by simpa [h1] using hused
  exact hmode (by simp [State.predMode, h0, h1])

theorem hasChroma_of_mem_blockPlanes {s : State} {pl : ChromaPlane} (h : .chroma pl ∈ s.blockPlanes) :
    s.hasChroma = true := by
  by_contra hchroma
  simp [State.blockPlanes, hchroma] at h

theorem all_congr_of_mem {α : Type} {l : List α} {p q : α → Bool} (h : ∀ x ∈ l, p x = q x) : l.all p = l.all q := by
  rw [Bool.eq_iff_iff, List.all_eq_true, List.all_eq_true]
  exact forall₂_congr fun x hx => by rw [h x hx]

namespace State.BlockArgsAgree

variable {s : State} {a : Vector Word 32} (h : s.BlockArgsAgree a)
include h

theorem blockOperands : (s.withArgs a).blockOperands = s.blockOperands :=
  blockOperands_withArgs (h.block.mono (by decide))

theorem use0 : (s.withArgs a).use0 = s.use0 := use0_withArgs (h.block.mono (by decide))

theorem use1 : (s.withArgs a).use1 = s.use1 := use1_withArgs (h.block.mono (by decide))

/-! ### The mode and the lists it reads -/

/-- The mode looks at the motion of the lists only where both are used. -/
theorem predMode (hused : (s.use0 || s.use1) = true) : (s.withArgs a).predMode = s.predMode := by
  unfold State.predMode
  rw [h.use0, h.use1]
  cases h0 : s.use0
  · have h1 : s.use1 = true := by simpa [h0] using hused
    simp [h1]
  · cases h1 : s.use1
    · simp
    · have hmotion : (s.withArgs a).sameMotion = s.sameMotion := by
        simp [State.sameMotion, State.mv0, State.mv1, State.list0, State.list1, mvClip_withArgs h.blockOperands,
          s32_withArgs (h.list0 h0), s32_withArgs (h.list1 h1)]
      simp [hmotion]

theorem refList_base_false (h0 : s.use0 = true) {p : BlockPlane} (hp : p ∈ s.blockPlanes) :
    (s.withArgs a).list0.base p = s.list0.base p := by
  match p with
  | .luma => exact u32_withArgs (h.list0 h0) (by decide)
  | .chroma .cb => exact u32_withArgs (h.chroma0 (hasChroma_of_mem_blockPlanes hp) h0) (by decide)
  | .chroma .cr => exact u32_withArgs (h.chroma0 (hasChroma_of_mem_blockPlanes hp) h0) (by decide)

theorem refList_base_true (hused : (s.use0 || s.use1) = true) (hmode : s.predMode ≠ .l0) {p : BlockPlane}
    (hp : p ∈ s.blockPlanes) : (s.withArgs a).list1.base p = s.list1.base p := by
  have h1 := use1_of_mode_ne_l0 hused hmode
  match p with
  | .luma => exact u32_withArgs (h.luma1 h1 hmode) (by decide)
  | .chroma .cb => exact u32_withArgs (h.chroma1 (hasChroma_of_mem_blockPlanes hp) h1 hmode) (by decide)
  | .chroma .cr => exact u32_withArgs (h.chroma1 (hasChroma_of_mem_blockPlanes hp) h1 hmode) (by decide)

theorem refList_base (hused : (s.use0 || s.use1) = true) {one : Bool} (hone : one ∈ s.predMode.lists) {p : BlockPlane}
    (hp : p ∈ s.blockPlanes) : ((s.withArgs a).refList one).base p = (s.refList one).base p := by
  cases one
  · exact h.refList_base_false (use0_of_mode_ne_l1 hused (false_mem_lists_iff.1 hone)) hp
  · exact h.refList_base_true hused (true_mem_lists_iff.1 hone) hp

theorem clippedMv (hused : (s.use0 || s.use1) = true) {one : Bool} (hone : one ∈ s.predMode.lists) :
    (s.withArgs a).clippedMv one = s.clippedMv one := by
  cases one
  · have h0 := use0_of_mode_ne_l1 hused (false_mem_lists_iff.1 hone)
    simp [State.clippedMv, State.mv0, State.list0, mvClip_withArgs h.blockOperands, s32_withArgs (h.list0 h0)]
  · have h1 := use1_of_mode_ne_l0 hused (true_mem_lists_iff.1 hone)
    simp [State.clippedMv, State.mv1, State.list1, mvClip_withArgs h.blockOperands, s32_withArgs (h.list1 h1)]

/-! ### The planes -/

theorem dstBase {p : BlockPlane} (hp : p ∈ s.blockPlanes) : (s.withArgs a).dstBase p = s.dstBase p := by
  match p with
  | .luma => exact u32_withArgs h.block (by decide)
  | .chroma .cb => exact u32_withArgs (h.chroma (hasChroma_of_mem_blockPlanes hp)) (by decide)
  | .chroma .cr => exact u32_withArgs (h.chroma (hasChroma_of_mem_blockPlanes hp)) (by decide)

theorem dstStride {p : BlockPlane} (hp : p ∈ s.blockPlanes) : (s.withArgs a).dstStride p = s.dstStride p := by
  cases p with
  | luma => exact u32_withArgs h.block (by decide)
  | chroma pl => exact u32_withArgs (h.chroma (hasChroma_of_mem_blockPlanes hp)) (by decide)

theorem planeW (p : BlockPlane) : (s.withArgs a).planeW p = s.planeW p := by
  cases p <;> simp [State.planeW, h.blockOperands]

theorem planeH (p : BlockPlane) : (s.withArgs a).planeH p = s.planeH p := by
  cases p <;> simp [State.planeH, h.blockOperands]

theorem blockPrediction (hused : (s.use0 || s.use1) = true) {one : Bool} (hone : one ∈ s.predMode.lists) {p : BlockPlane}
    (hp : p ∈ s.blockPlanes) : (s.withArgs a).blockPrediction one p = s.blockPrediction one p := by
  cases p with
  | luma =>
    simp [State.blockPrediction, h.blockOperands, h.refList_base hused hone hp, h.clippedMv hused hone, h.planeW, h.planeH,
      u32_withArgs h.block]
  | chroma pl =>
    simp [State.blockPrediction, h.blockOperands, h.refList_base hused hone hp, h.clippedMv hused hone, h.planeW, h.planeH,
      u32_withArgs (h.chroma (hasChroma_of_mem_blockPlanes hp))]

theorem blockSample (hused : (s.use0 || s.use1) = true) {p : BlockPlane} (hp : p ∈ s.blockPlanes) :
    (s.withArgs a).blockSample p = s.blockSample p := by
  have hpred0 (hmode : s.predMode ≠ .l1) := h.blockPrediction hused (false_mem_lists_iff.2 hmode) hp
  have hpred1 (hmode : s.predMode ≠ .l0) := h.blockPrediction hused (true_mem_lists_iff.2 hmode) hp
  funext r c
  unfold State.blockSample
  rw [h.predMode hused, withArgs_predict]
  cases hmode : s.predMode
  case l0 => simp only [hpred0 (by simp [hmode])]
  case l1 => simp only [hpred1 (by simp [hmode])]
  case bi => simp only [hpred0 (by simp [hmode]), hpred1 (by simp [hmode])]

/-! ### The command -/

theorem blockReads (hused : (s.use0 || s.use1) = true) : (s.withArgs a).blockReads = s.blockReads := by
  unfold State.blockReads
  rw [h.predMode hused]
  refine List.flatMap_congr fun one hone => List.flatMap_congr fun p hp => ?_
  rw [withArgs_predReads, h.blockPrediction hused hone hp]

theorem blockWrites : (s.withArgs a).blockWrites = s.blockWrites :=
  List.flatMap_congr fun p hp => by rw [h.dstBase hp, h.dstStride hp, h.planeW, h.planeH]

theorem blockStoreList (hused : (s.use0 || s.use1) = true) : (s.withArgs a).blockStoreList = s.blockStoreList :=
  List.flatMap_congr fun p hp => by rw [h.dstBase hp, h.dstStride hp, h.planeW, h.planeH, h.blockSample hused hp]

theorem blockBasesEven (hused : (s.use0 || s.use1) = true) : (s.withArgs a).blockBasesEven = s.blockBasesEven := by
  unfold State.blockBasesEven
  rw [h.predMode hused]
  refine all_congr_of_mem fun p hp => ?_
  rw [h.dstBase hp, all_congr_of_mem fun one hone => by rw [h.refList_base hused hone hp]]

/-- With neither list used, MC_BLOCK faults before it looks at the lists (R253). -/
theorem faultMcBlock_eq : faultMcBlock (s.withArgs a) = faultMcBlock s := by
  have hinside := blockInPicture_withArgs h.blockOperands
  have haligned : (s.withArgs a).chromaAligned = s.chromaAligned := by simp [State.chromaAligned, h.blockOperands]
  unfold faultMcBlock
  rw [hinside, haligned, h.use0, h.use1]
  cases hused : s.use0 || s.use1
  · simp only [firstFault, withArgs_cfgBlk, Bool.false_eq_true, if_false]
  · rw [h.blockBasesEven hused, h.blockReads hused, h.blockWrites, withArgs_cfgBlk, withArgs_allInRange]

theorem sameUnder : SameUnder .mcBlock s a := by
  refine ⟨h.faultMcBlock_eq, fun hruns => ?_⟩
  have hused : (s.use0 || s.use1) = true :=
    firstFault_eq_none.1 hruns (s.use0 || s.use1, .noRef) (by simp)
  simp only [commandEffect, effectMcBlock, h.blockStoreList hused, withArgs_mem]
  rfl

end State.BlockArgsAgree

/-! ## The ARGs that a command does not read -/

/-- Under each condition of `BlockArgsAgree`, the clauses that contradict it fall away, and the others name no ARG it lists. -/
theorem blockArgsAgree_set {s : State} {k : Fin 32} (v : Word)
    (hk : k.val = 15 ∨ k.val = 16 ∨ 26 ≤ k.val ∨
      (s.chromaFmt = 0 ∧ (k.val = 17 ∨ k.val = 18 ∨ (20 ≤ k.val ∧ k.val ≤ 25))) ∨
      (s.use0 = false ∧ k.val ∈ [0, 6, 7, 11, 17, 18]) ∨
      (s.use1 = false ∧ k.val ∈ [12, 13, 14, 19, 20, 21]) ∨
      (s.predMode = .l0 ∧ k.val ∈ [19, 20, 21])) : s.BlockArgsAgree (s.args.set k v) := by
  simp only [List.mem_cons, List.not_mem_nil, or_false] at hk
  constructor
  case block => exact argsAgree_set v
  case list0 =>
    intro h0
    simp only [h0, Bool.true_eq_false, false_and, false_or] at hk
    exact argsAgree_set v
  case list1 =>
    intro h1
    simp only [h1, Bool.true_eq_false, false_and, false_or] at hk
    exact argsAgree_set v
  case luma1 =>
    intro h1 hmode
    simp only [h1, hmode, Bool.true_eq_false, false_and, or_false] at hk
    exact argsAgree_set v
  case chroma =>
    intro hchroma
    simp only [hasChroma_iff.1 hchroma, false_and, false_or] at hk
    exact argsAgree_set v
  case chroma0 =>
    intro hchroma h0
    simp only [hasChroma_iff.1 hchroma, h0, Bool.true_eq_false, false_and, false_or] at hk
    exact argsAgree_set v
  case chroma1 =>
    intro hchroma h1 hmode
    simp only [hasChroma_iff.1 hchroma, h1, hmode, Bool.true_eq_false, false_and, false_or, or_false] at hk
    exact argsAgree_set v

/-- Settles O22: an ARG as `u32` and `s32` is so by definition, and a write of an ARG that a command does not list leaves the
operands it reads, from which it does the same. -/
theorem commandsReadOnlyTheirArgs : Obligations.CommandsReadOnlyTheirArgs := by
  unfold Obligations.CommandsReadOnlyTheirArgs
  refine ⟨fun s k => ⟨rfl, rfl, rfl⟩, fun i s t k v hk hexec => SameUnder.exec (a := s.args.set k v) ?_ hexec⟩
  cases i <;> dsimp only at hk
  case nop | dfPassBegin => exact ⟨rfl, fun _ => rfl⟩
  case mcPredLuma => exact (sameUnder_mcPred (predOperands_withArgs (argsAgree_set v))).1
  case mcPredChroma => exact (sameUnder_mcPred (predOperands_withArgs (argsAgree_set v))).2
  case mcBiAvg => exact sameUnder_mcBiAvg (biOperands_withArgs (argsAgree_set v))
  case mcMvClip => exact sameUnder_mcMvClip (argsAgree_set v)
  case mcBlock => exact (blockArgsAgree_set v hk).sameUnder
  case dfBs => exact sameUnder_dfBs (argsAgree_set v)
  case dfEdgeLuma => exact (sameUnder_dfEdge (edgeOperands_withArgs (argsAgree_set v))).1
  case dfEdgeChroma => exact (sameUnder_dfEdge (edgeOperands_withArgs (argsAgree_set v))).2
  case dfQpcCb => exact (sameUnder_dfQpc (argsAgree_set v)).1
  case dfQpcCr => exact (sameUnder_dfQpc (argsAgree_set v)).2
  case dfCuHor => exact (sameUnder_dfCu (blockOperands_withArgs (argsAgree_set v))).1
  case dfCuVer => exact (sameUnder_dfCu (blockOperands_withArgs (argsAgree_set v))).2

end Sys2Proof.Machine

/-! # Motion compensation (40_mc.md): the position splits, the arithmetic of a prediction and what it depends on, what the
commands store, and the statements these settle -/

namespace Sys2Proof.Machine

/-! ## The position, filter and bit depth of a prediction (R141 to R143) -/

theorem lumaSplit_phase (x mv : Int) : (lumaSplit x mv).2 < 16 ∧ (lumaSplit x mv).2 % 4 = 0 := by
  simp only [lumaSplit_eq]
  omega

theorem chromaSplit_position (shift : Nat) (x mv : Int) :
    32 * (chromaSplit shift x mv).1 + ((chromaSplit shift x mv).2 : Int) = 32 * x + mv * 2 ^ (3 - shift) ∧
      (chromaSplit shift x mv).2 < 32 := by
  simp only [chromaSplit_eq]
  omega

/-- The phases of a chroma position: the vector is in quarter luma samples, so in eighths of a subsampled chroma sample. -/
theorem chromaSplit_phase {shift : Nat} (h : shift ≤ 1) (x mv : Int) :
    (chromaSplit shift x mv).2 % (if shift = 1 then 4 else 8) = 0 := by
  rw [chromaSplit_eq]
  obtain rfl | rfl := Nat.le_one_iff_eq_zero_or_eq_one.1 h <;> norm_num <;> omega

theorem ws_le_one (s : State) : s.ws ≤ 1 := by unfold State.ws; split <;> omega

theorem hs_le_one (s : State) : s.hs ≤ 1 := by unfold State.hs; split <;> omega

theorem positionOf_luma {s : State} {q : Prediction} (h : q.chroma = false) :
    s.positionOf q =
      ⟨(lumaSplit q.x q.mv.x).1, (lumaSplit q.x q.mv.x).2, (lumaSplit q.y q.mv.y).1, (lumaSplit q.y q.mv.y).2⟩ := by
  simp [State.positionOf, h]

theorem positionOf_chroma {s : State} {q : Prediction} (h : q.chroma = true) :
    s.positionOf q =
      ⟨(chromaSplit s.ws q.x q.mv.x).1, (chromaSplit s.ws q.x q.mv.x).2, (chromaSplit s.hs q.y q.mv.y).1,
        (chromaSplit s.hs q.y q.mv.y).2⟩ := by
  simp [State.positionOf, h]

theorem filterOf_luma {s : State} {q : Prediction} (h : q.chroma = false) : s.filterOf q = lumaFilter s.params := by
  simp [State.filterOf, h]

theorem filterOf_chroma {s : State} {q : Prediction} (h : q.chroma = true) : s.filterOf q = chromaFilter s.params := by
  simp [State.filterOf, h]

theorem depthOf_luma {s : State} {q : Prediction} (h : q.chroma = false) : s.depthOf q = s.bitDepthY := by
  simp [State.depthOf, h]

theorem depthOf_chroma {s : State} {q : Prediction} (h : q.chroma = true) : s.depthOf q = s.bitDepthC := by
  simp [State.depthOf, h]

/-! ## The filters (R143 to R148) -/

theorem Filter.sum_eq (g : Filter) (phase : Nat) (f : Nat → Int) :
    g.sum phase f = ∑ k ∈ Finset.range g.taps, g.coef phase k * f k := rfl

theorem Filter.sum_congr {g : Filter} {phase : Nat} {f f' : Nat → Int} (h : ∀ k < g.taps, f k = f' k) :
    g.sum phase f = g.sum phase f' := by
  rw [sum_eq, sum_eq]
  exact Finset.sum_congr rfl fun k hk => by rw [h k (Finset.mem_range.1 hk)]

/-- A row of coefficients that sums to 64 (R11). -/
def Filter.SumsTo64 (g : Filter) (phase : Nat) : Prop := ∑ k ∈ Finset.range g.taps, g.coef phase k = 64

theorem Filter.sum_const {g : Filter} {phase : Nat} (h : g.SumsTo64 phase) (v : Int) :
    g.sum phase (fun _ => v) = 64 * v := by
  rw [Filter.sum_eq, ← Finset.sum_mul, h]

/-- The two-pass shifts and offsets of R143 at the legal bit depths. -/
theorem twoPassShifts_of_okBD {bd : Nat} (h : okBD bd = true) :
    (bd = 8 ∧ firstShift bd = 0 ∧ firstOffset bd = 0 ∧ secondShift bd = 12 ∧ secondOffset bd = 2048) ∨
    (bd = 10 ∧ firstShift bd = 2 ∧ firstOffset bd = 2 ∧ secondShift bd = 10 ∧ secondOffset bd = 512) ∨
    (bd = 11 ∧ firstShift bd = 3 ∧ firstOffset bd = 4 ∧ secondShift bd = 9 ∧ secondOffset bd = 256) ∨
    (12 ≤ bd ∧ firstShift bd = 4 ∧ firstOffset bd = 8 ∧ secondShift bd = 8 ∧ secondOffset bd = 128) := by
  rcases okBD_iff.1 h with rfl | ⟨hlo, hhi⟩
  · decide
  · interval_cases bd <;> decide

theorem asr_single (a : Int) : asr a singleShift = a / 64 := rfl

/-- The two-pass value of R175 before its clip: the first pass gives `f`, and the second axis is at a whole sample. -/
def twoPassValue (bd : Nat) (f : Int) : Int :=
  asr (64 * asr (f + firstOffset bd) (firstShift bd) + secondOffset bd) (secondShift bd)

theorem twoPassValue_cases {bd : Nat} (h : okBD bd = true) (f : Int) :
    (bd = 8 ∧ twoPassValue bd f = (64 * f + 2048) / 4096) ∨
    (bd ≠ 8 ∧ (twoPassValue bd f = (64 * ((f + 2) / 4) + 512) / 1024 ∨
      twoPassValue bd f = (64 * ((f + 4) / 8) + 256) / 512 ∨ twoPassValue bd f = (64 * ((f + 8) / 16) + 128) / 256)) := by
  rcases twoPassShifts_of_okBD h with ⟨rfl, hs1, ho1, hs2, ho2⟩ | ⟨rfl, hs1, ho1, hs2, ho2⟩ | ⟨rfl, hs1, ho1, hs2, ho2⟩ |
    ⟨hbd, hs1, ho1, hs2, ho2⟩
  · exact .inl ⟨rfl, by simp [twoPassValue, hs1, ho1, hs2, ho2, asr_eq_div]⟩
  · exact .inr ⟨by decide, .inl (by simp [twoPassValue, hs1, ho1, hs2, ho2, asr_eq_div])⟩
  · exact .inr ⟨by decide, .inr (.inl (by simp [twoPassValue, hs1, ho1, hs2, ho2, asr_eq_div]))⟩
  · exact .inr ⟨by omega, .inr (.inr (by simp [twoPassValue, hs1, ho1, hs2, ho2, asr_eq_div]))⟩

/-- R175, before the clip: the second rounding moves the single-axis value by at most 1, and not at bit depth 8. -/
theorem twoPassValue_near {bd : Nat} (h : okBD bd = true) (f : Int) :
    twoPassValue bd f - (f + 32) / 64 ≤ 1 ∧ (f + 32) / 64 - twoPassValue bd f ≤ 1 ∧
      (bd = 8 → twoPassValue bd f = (f + 32) / 64) := by
  have hcases := twoPassValue_cases h f
  omega

/-- A constant passes both roundings. -/
theorem twoPassValue_const {bd : Nat} (h : okBD bd = true) (v : Int) : twoPassValue bd (64 * v) = v := by
  have hcases := twoPassValue_cases h (64 * v)
  omega

/-- The sample clip does not spread two values. -/
theorem clipS_sub_le {bd : Nat} {a b k : Int} (hk : 0 ≤ k) (h : a - b ≤ k) : clipS bd a - clipS bd b ≤ k := by
  unfold clipS clip3
  omega

/-! ## A prediction (R144) -/

/-- The four cases of R144, each as its rule writes it (R145 to R148, R151 to R154). -/
theorem predSample_eq (g : Filter) (bd : Nat) (ref : Int → Int → Int) (p : Position) (r c : Int) :
    predSample g bd ref p r c =
      if p.fx = 0 ∧ p.fy = 0 then ref (p.xi + c) (p.yi + r)
      else if p.fy = 0 then
        clipS bd (((∑ k ∈ Finset.range g.taps, g.coef p.fx k * ref (p.xi + c - g.lead + k) (p.yi + r)) + 32) / 64)
      else if p.fx = 0 then
        clipS bd (((∑ k ∈ Finset.range g.taps, g.coef p.fy k * ref (p.xi + c) (p.yi + r - g.lead + k)) + 32) / 64)
      else
        clipS bd (((∑ k ∈ Finset.range g.taps, g.coef p.fy k *
          (((∑ j ∈ Finset.range g.taps, g.coef p.fx j * ref (p.xi + c - g.lead + j) (p.yi + (r - g.lead + k))) +
            2 ^ firstShift bd / 2) / 2 ^ firstShift bd)) + 2 ^ (secondShift bd - 1)) / 2 ^ secondShift bd) := by
  unfold predSample
  by_cases hx : p.fx = 0 <;> by_cases hy : p.fy = 0 <;> simp only [hx, hy, if_true, if_false, and_self, and_true, and_false]
  · rfl
  · rfl
  · rfl
  · simp [twoPassSample, firstPass, Filter.sum_eq, firstOffset, secondOffset, asr_eq_div, shl]

/-- A prediction is a sample of the reference or a clipped value, so it keeps any bound of both. -/
theorem predSample_bounds {g : Filter} {bd : Nat} {ref : Int → Int → Int} {p : Position} {r c m : Int}
    (hm : ((2 ^ bd : Nat) : Int) - 1 ≤ m)
    (hcopy : p.fx = 0 → p.fy = 0 → 0 ≤ ref (p.xi + c) (p.yi + r) ∧ ref (p.xi + c) (p.yi + r) ≤ m) :
    0 ≤ predSample g bd ref p r c ∧ predSample g bd ref p r c ≤ m := by
  have hclip (v : Int) : 0 ≤ clipS bd v ∧ clipS bd v ≤ m := ⟨(clipS_mem bd v).1, (clipS_mem bd v).2.trans hm⟩
  unfold predSample
  split_ifs with hx hy hy
  · exact hcopy hx hy
  · exact hclip _
  · exact hclip _
  · exact hclip _

theorem add_mem_axisReads {g : Filter} {pos : Int} {phase n c : Nat} (hphase : phase = 0) (hc : c < n) :
    pos + c ∈ axisReads g pos phase n := by
  rw [mem_axisReads, if_pos hphase]
  omega

theorem tap_mem_axisReads {g : Filter} {pos : Int} {phase n c k : Nat} (hphase : phase ≠ 0) (hc : c < n)
    (hk : k < g.taps) : pos + c - g.lead + k ∈ axisReads g pos phase n := by
  rw [mem_axisReads, if_neg hphase]
  omega

/-- A prediction depends on the reference at its read set only (R149, R156). -/
theorem predSample_congr {g : Filter} {bd : Nat} {ref ref' : Int → Int → Int} {p : Position} {w h r c : Nat}
    (href : ∀ x ∈ axisReads g p.xi p.fx w, ∀ y ∈ axisReads g p.yi p.fy h, ref x y = ref' x y) (hr : r < h) (hc : c < w) :
    predSample g bd ref p r c = predSample g bd ref' p r c := by
  unfold predSample
  split_ifs with hx hy hy
  · exact href _ (add_mem_axisReads hx hc) _ (add_mem_axisReads hy hr)
  · unfold verSample
    rw [Filter.sum_congr fun k hk => href _ (add_mem_axisReads hx hc) _ (tap_mem_axisReads hy hr hk)]
  · unfold horSample
    rw [Filter.sum_congr fun k hk => href _ (tap_mem_axisReads hx hc hk) _ (add_mem_axisReads hy hr)]
  · have hfirst (j : Nat) (hj : j < g.taps) :
        firstPass g bd ref p (r - g.lead + j) c = firstPass g bd ref' p (r - g.lead + j) c := by
      have hy' : p.yi + (r - g.lead + j) ∈ axisReads g p.yi p.fy h := by
        rw [← add_assoc, ← add_sub_assoc]
        exact tap_mem_axisReads hy hr hj
      unfold firstPass
      rw [Filter.sum_congr fun k hk => href _ (tap_mem_axisReads hx hc hk) _ hy']
    unfold twoPassSample
    rw [Filter.sum_congr hfirst]

/-- A flat reference is predicted flat, where the rows that are used sum to 64. -/
theorem predSample_const {g : Filter} {bd : Nat} {p : Position} {v : Int} (hbd : okBD bd = true) (hlo : 0 ≤ v)
    (hhi : v ≤ ((2 ^ bd : Nat) : Int) - 1) (hx : p.fx ≠ 0 → g.SumsTo64 p.fx) (hy : p.fy ≠ 0 → g.SumsTo64 p.fy)
    (r c : Int) : predSample g bd (fun _ _ => v) p r c = v := by
  have hsingle : asr (64 * v + singleOffset) singleShift = v := by
    simp only [asr_single, singleOffset]
    omega
  unfold predSample
  split_ifs with hx0 hy0 hy0
  · rfl
  · rw [verSample, Filter.sum_const (hy hy0), hsingle, clipS_eq hlo hhi]
  · rw [horSample, Filter.sum_const (hx hx0), hsingle, clipS_eq hlo hhi]
  · simp only [twoPassSample, firstPass, Filter.sum_const (hx hx0), Filter.sum_const (hy hy0)]
    rw [← twoPassValue, twoPassValue_const hbd, clipS_eq hlo hhi]

/-- A prediction takes the samples at its read set from memory, whatever gives them. -/
theorem predict_eq_of_reads {s : State} {q : Prediction} {ref : Int → Int → Int}
    (h : ∀ x y, sampleAddr q.refBase q.refStride x y ∈ s.predReads q → s.refSample q x y = ref x y) {r c : Nat}
    (hr : r < q.h) (hc : c < q.w) :
    s.predict q r c = predSample (s.filterOf q) (s.depthOf q) ref (s.positionOf q) r c :=
  predSample_congr (fun x hx y hy => h x y (mem_predReads.2 ⟨x, y, hx, hy, rfl⟩)) hr hc

/-- A prediction from another base whose plane holds the same samples is the same. -/
theorem predict_withBase {s : State} {q : Prediction} {base : Int}
    (h : ∀ a, Spec.Window s q a → s.mem.read16 (a - q.refBase + base) = s.mem.read16 a) {r c : Nat} (hr : r < q.h)
    (hc : c < q.w) : s.predict q r c = s.predict { q with refBase := base } r c := by
  refine predict_eq_of_reads (ref := s.refSample { q with refBase := base }) (fun x y ha => ?_) hr hc
  have hsame := h _ (mem_predReads_iff_window.1 ha)
  rw [State.refSample, ← hsame]
  congr 1
  simp only [sampleAddr]
  ring

theorem depthOf_lt (s : State) (q : Prediction) : s.depthOf q < 16 := by
  unfold State.depthOf
  split
  · exact bits_lt _ _ _
  · exact bits_lt _ _ _

/-- Every predicted sample fits the 16 bits it is stored in. -/
theorem predict_range (s : State) (q : Prediction) (r c : Int) : 0 ≤ s.predict q r c ∧ s.predict q r c ≤ 65535 := by
  refine predSample_bounds ?_ fun _ _ => Memory.read16_range _ _
  have hpow : 2 ^ s.depthOf q ≤ 2 ^ 16 := Nat.pow_le_pow_right (by omega) (depthOf_lt s q).le
  omega

/-! ## The rounded average (R160) -/

theorem average_eq (a b : Int) : average a b = (a + b + 1) / 2 := rfl

theorem average_self (a : Int) : average a a = a := by
  rw [average_eq]
  omega

theorem average_bounds {a b m : Int} (ha : 0 ≤ a ∧ a ≤ m) (hb : 0 ≤ b ∧ b ≤ m) : 0 ≤ average a b ∧ average a b ≤ m := by
  rw [average_eq]
  omega

/-! ## Well-formed coefficient tables (R11) -/

theorem sum_range_getElem? {n : Nat} (row : Vector Int n) :
    ∑ k ∈ Finset.range n, row[k]?.getD 0 = row.toList.sum := by
  obtain ⟨⟨l⟩, rfl⟩ := row
  simp [← Fin.sum_univ_getElem, Finset.sum_range]

theorem rowOk_of_wf {p : Config.Params} (h : p.wf = true) :
    (∀ i < 16, Config.lumaRowOk i (p.lumaCoef[i]?.getD default) = true) ∧
      ∀ i < 32, Config.chromaRowOk i (p.chromaCoef[i]?.getD default) = true := by
  simp only [Config.Params.wf, Bool.and_eq_true, List.all_eq_true, List.mem_range] at h
  obtain ⟨⟨⟨-, hluma⟩, hchroma⟩, -⟩ := h
  exact ⟨hluma, hchroma⟩

theorem lumaFilter_sumsTo64 {p : Config.Params} (h : p.wf = true) {phase : Nat} (hlt : phase < 16)
    (hmod : phase % 4 = 0) (hne : phase ≠ 0) : (lumaFilter p).SumsTo64 phase := by
  have hrow := (rowOk_of_wf h).1 phase hlt
  simp only [Config.lumaRowOk, Config.rowSums64, Bool.and_eq_true, hmod, beq_self_eq_true, if_true, Bool.or_eq_true,
    beq_iff_eq, hne, false_or] at hrow
  exact (sum_range_getElem? _).trans hrow.2

theorem chromaFilter_sumsTo64 {p : Config.Params} (h : p.wf = true) {phase : Nat} (hlt : phase < 32)
    (hmod : phase % 4 = 0) (hne : phase ≠ 0) : (chromaFilter p).SumsTo64 phase := by
  have hrow := (rowOk_of_wf h).2 phase hlt
  simp only [Config.chromaRowOk, Config.rowSums64, Bool.and_eq_true, bne_iff_ne, Bool.or_eq_true, beq_iff_eq, hmod, hne,
    ne_eq, not_true_eq_false, false_or] at hrow
  exact (sum_range_getElem? _).trans hrow.2

theorem chromaSplit_sumsTo64 {p : Config.Params} (h : p.wf = true) {shift : Nat} (hshift : shift ≤ 1) {x mv : Int}
    (hne : (chromaSplit shift x mv).2 ≠ 0) : (chromaFilter p).SumsTo64 (chromaSplit shift x mv).2 := by
  have hphase := chromaSplit_phase hshift x mv
  refine chromaFilter_sumsTo64 h (chromaSplit_position shift x mv).2 ?_ hne
  split at hphase <;> omega

/-- The rows that a prediction uses sum to 64: its phases are multiples of 4 (R141, R142). -/
theorem filterOf_sumsTo64 {s : State} (h : s.params.wf = true) (q : Prediction) :
    ((s.positionOf q).fx ≠ 0 → (s.filterOf q).SumsTo64 (s.positionOf q).fx) ∧
      ((s.positionOf q).fy ≠ 0 → (s.filterOf q).SumsTo64 (s.positionOf q).fy) := by
  cases hq : q.chroma
  · rw [positionOf_luma hq, filterOf_luma hq]
    exact ⟨lumaFilter_sumsTo64 h (lumaSplit_phase _ _).1 (lumaSplit_phase _ _).2,
      lumaFilter_sumsTo64 h (lumaSplit_phase _ _).1 (lumaSplit_phase _ _).2⟩
  · rw [positionOf_chroma hq, filterOf_chroma hq]
    exact ⟨chromaSplit_sumsTo64 h (ws_le_one s), chromaSplit_sumsTo64 h (hs_le_one s)⟩

/-! ## Vectors and modes (R165, R171) -/

/-- R171: equal POCs and equal clipped vectors. -/
theorem sameMotion_iff {s : State} : s.sameMotion = true ↔ s.list0.poc = s.list1.poc ∧ s.mv0 = s.mv1 := by
  simp [State.sameMotion]

/-- R170, where both lists are used: the shortcut or both. -/
theorem predMode_of_both {s : State} (h0 : s.use0 = true) (h1 : s.use1 = true) :
    s.predMode = if s.sameMotion then .l0 else .bi := by simp [State.predMode, h0, h1]

/-- The bounds of R165 are in order, and a component within them keeps its reads within MAXCU of the picture. -/
theorem clipComponent_reads {maxCu pic size : Nat} {pos : Int} (hcu : 4 ≤ maxCu) (hpos : pos + size ≤ pic)
    (hpos0 : 0 ≤ pos) (mv : Int) :
    (lumaSplit pos (clipComponent maxCu pic pos size mv)).1 - 3 ≥ -(maxCu : Int) ∧
      (lumaSplit pos (clipComponent maxCu pic pos size mv)).1 + size + 3 ≤ (pic : Int) + maxCu - 1 := by
  have hbounds : (4 * (3 - (maxCu : Int) - pos)) ≤ 4 * ((pic : Int) + maxCu - 4 - size - pos) := by omega
  obtain ⟨hlo, hhi⟩ := clip3_mem hbounds mv
  rw [lumaSplit_eq, clipComponent]
  omega

/-! ## Stores (R17, R83) -/

/-- A sample fits its 16-bit unit. -/
theorem emod_of_sample {v : Int} (h : 0 ≤ v ∧ v ≤ 65535) : v % 65536 = v := by omega

/-- What a block stored among other stores leaves at one of its samples that no later store is to. -/
theorem read16_writeAll_block {m : Memory} (hm : m.wf) {base stride : Int} {w h : Nat} (o : Int → Int → Int)
    (before : List (Int × Int)) {after : List (Int × Int)} (hbase : base % 2 = 0)
    (hblock : ∀ r c : Nat, r < h → c < w → 0 ≤ sampleAddr base stride c r) {r c : Nat} (hr : r < h) (hc : c < w)
    (hlast : ∀ r' c' : Nat, r' < h → c' < w → r < r' ∨ (r = r' ∧ c < c') →
      sampleAddr base stride c' r' ≠ sampleAddr base stride c r)
    (hafter : ∀ x ∈ after, 0 ≤ x.1 ∧ x.1 % 2 = 0 ∧ x.1 ≠ sampleAddr base stride c r) :
    (m.writeAll (before ++ (blockStores base stride w h o ++ after))).read16 (sampleAddr base stride c r) =
      o r c % 65536 := by
  obtain ⟨init, rest, hsplit, hrest⟩ := blockStores_split (base := base) (stride := stride) o hr hc
  have hlist : before ++ (blockStores base stride w h o ++ after) =
      (before ++ init) ++ (sampleAddr base stride c r, o r c) :: (rest ++ after) := by simp [hsplit]
  rw [hlist]
  refine Memory.read16_writeAll_last hm (hblock r c hr hc) (sampleAddr_even hbase _ _ _) fun x hx => ?_
  rcases List.mem_append.1 hx with hx | hx
  · obtain ⟨r', c', hr', hc', hlater, hx⟩ := hrest x hx
    rw [hx]
    exact ⟨hblock r' c' hr' hc', sampleAddr_even hbase _ _ _, hlast r' c' hr' hc' hlater⟩
  · exact hafter x hx

/-- A block stored alone. -/
theorem read16_writeAll_blockStores {m : Memory} (hm : m.wf) {base stride : Int} {w h : Nat} (o : Int → Int → Int)
    (hbase : base % 2 = 0) (hblock : ∀ r c : Nat, r < h → c < w → 0 ≤ sampleAddr base stride c r) {r c : Nat}
    (hr : r < h) (hc : c < w)
    (hlast : ∀ r' c' : Nat, r' < h → c' < w → r < r' ∨ (r = r' ∧ c < c') →
      sampleAddr base stride c' r' ≠ sampleAddr base stride c r) :
    (m.writeAll (blockStores base stride w h o)).read16 (sampleAddr base stride c r) = o r c % 65536 := by
  simpa using read16_writeAll_block hm o [] (after := []) hbase hblock hr hc hlast (by simp)

/-! ## The commands that store samples (R150, R155, R160, R170) -/

/-- What such a command changes where its checks hold: data memory and the completion bits. -/
theorem exec_storing {i : Instr} {s : State}
    (hi : i = .mcPredLuma ∨ i = .mcPredChroma ∨ i = .mcBiAvg ∨ i = .mcBlock) (hruns : commandFault i s = none) :
    exec i s = .next { s with
      mem := (commandEffect i s).mem, status := { s.status with busy := false, done := true } } := by
  rw [exec_of_runs hruns]
  rcases hi with rfl | rfl | rfl | rfl <;> rfl

/-- The range check of R75 is that of the rules' read and write sets. -/
theorem allInRange_of_allInMemory {i : Instr} {s : State} (h : Spec.AllInMemory i s) :
    s.allInRange (commandReads i s) = true ∧ s.allInRange (commandWrites i s) = true :=
  ⟨allInRange_iff.2 fun a ha => h a (.inl (mem_commandReads_iff.1 ha)),
    allInRange_iff.2 fun a ha => h a (.inr (mem_commandWrites_iff.1 ha))⟩

theorem okBD_of_depth {b : Nat} (h : Spec.Depth b) : okBD b = true := by
  unfold Spec.Depth at h
  rw [okBD_iff]
  omega

theorem biAvg_allInMemory {s : State}
    (h : ∀ r c : Nat, r < s.count 9 → c < s.count 8 → ∀ a ∈ [s.u32 0 + 2 * ((r : Int) * s.u32 1 + c),
      s.u32 15 + 2 * ((r : Int) * s.u32 16 + c), s.u32 2 + 2 * ((r : Int) * s.u32 3 + c)], a + 2 ≤ s.params.memBytes) :
    Spec.AllInMemory .mcBiAvg s := by
  have hnonneg (i j : Fin 32) (r c : Nat) : 0 ≤ s.u32 i + 2 * ((r : Int) * s.u32 j + c) := by
    have hi := u32_nonneg s i
    have hj := u32_nonneg s j
    positivity
  rintro a ((⟨r, c, hr, hc, rfl⟩ | ⟨r, c, hr, hc, rfl⟩) | ⟨r, c, hr, hc, rfl⟩)
  · exact ⟨hnonneg _ _ _ _, h r c hr hc _ (by simp)⟩
  · exact ⟨hnonneg _ _ _ _, h r c hr hc _ (by simp)⟩
  · exact ⟨hnonneg _ _ _ _, h r c hr hc _ (by simp)⟩

/-- The checks of MC_BI_AVG (R125). -/
theorem faultMcBiAvg_eq_none {s : State} (hsize : Spec.Size s) (h0 : s.u32 0 % 2 = 0) (h1 : s.u32 15 % 2 = 0)
    (hdst : s.u32 2 % 2 = 0) (hmem : Spec.AllInMemory .mcBiAvg s) : commandFault .mcBiAvg s = none := by
  obtain ⟨hreads, hwrites⟩ := allInRange_of_allInMemory hmem
  refine firstFault_eq_none.2 ?_
  simp only [List.forall_mem_cons, Bool.and_eq_true]
  exact ⟨sizeOk_iff.2 hsize, ⟨⟨even_iff.2 h0, even_iff.2 h1⟩, even_iff.2 hdst⟩, ⟨hreads, hwrites⟩, by simp⟩

/-- The checks that MC_PRED_LUMA and MC_PRED_CHROMA share (R125). -/
theorem predFault_eq_none {chroma : Bool} {configOk : State → Bool} {s : State} (hcfg : configOk s = true)
    (hsize : Spec.Size s) (href : s.u32 0 % 2 = 0) (hdst : s.u32 2 % 2 = 0)
    (hreads : s.allInRange (s.predReads (s.predCommand chroma)) = true) (hwrites : s.allInRange s.predWrites = true) :
    predFault chroma configOk s = none := by
  refine firstFault_eq_none.2 ?_
  simp only [List.forall_mem_cons, Bool.and_eq_true]
  exact ⟨hcfg, sizeOk_iff.2 hsize, ⟨even_iff.2 href, even_iff.2 hdst⟩, ⟨hreads, hwrites⟩, by simp⟩

/-- The checks of both (R125), with the configuration each needs. -/
theorem faultMcPred_eq_none {s : State} {chroma : Bool}
    (hcfg : if chroma then Spec.Depth s.bitDepthC ∧ s.chromaFmt ≠ 0 else Spec.Depth s.bitDepthY) (hsize : Spec.Size s)
    (href : s.u32 0 % 2 = 0) (hdst : s.u32 2 % 2 = 0)
    (hmem : Spec.AllInMemory (if chroma then .mcPredChroma else .mcPredLuma) s) :
    commandFault (if chroma then .mcPredChroma else .mcPredLuma) s = none := by
  obtain ⟨hreads, hwrites⟩ := allInRange_of_allInMemory hmem
  cases chroma
  · exact predFault_eq_none (okBD_of_depth hcfg) hsize href hdst hreads hwrites
  · exact predFault_eq_none (Bool.and_eq_true_iff.2 ⟨okBD_of_depth hcfg.1, hasChroma_iff.2 hcfg.2⟩) hsize href hdst
      hreads hwrites

theorem chromaAligned_of_spec {s : State} (h : Spec.ChromaAligned s) : s.chromaAligned = true := by
  by_cases hfmt : s.chromaFmt = 0
  · simp [State.chromaAligned, State.hasChroma, hfmt]
  · have h := h hfmt
    rw [shiftX_eq_ws, shiftY_eq_hs] at h
    simpa [State.chromaAligned, State.blockOperands, lowBits, State.hasChroma, hfmt, and_assoc] using h

theorem blockBasesEven_of_spec {s : State} (h : Spec.BlockBasesEven s) : s.blockBasesEven = true := by
  rw [Spec.BlockBasesEven, planes_eq, List.forall_mem_map] at h
  simp only [State.blockBasesEven, List.all_eq_true, Bool.and_eq_true, even_iff]
  refine fun p hp => ⟨(h p hp).1, fun one hone => ?_⟩
  obtain ⟨-, hlist0, hlist1⟩ := h p hp
  cases one
  · have := hlist0 (false_mem_lists_iff.1 hone)
    cases p <;> exact this
  · have := hlist1 (true_mem_lists_iff.1 hone)
    cases p <;> exact this

/-- The checks of MC_BLOCK (R125). -/
theorem faultMcBlock_eq_none {s : State} (hpic : Spec.Pic s) (hdepthY : Spec.Depth s.bitDepthY)
    (hdepthC : s.chromaFmt ≠ 0 → Spec.Depth s.bitDepthC) (hsize : Spec.Size s) (hinside : Spec.Inside s)
    (haligned : Spec.ChromaAligned s) (hused : s.use0 = true ∨ s.use1 = true) (heven : Spec.BlockBasesEven s)
    (hmem : Spec.AllInMemory .mcBlock s) : commandFault .mcBlock s = none := by
  obtain ⟨hreads, hwrites⟩ := allInRange_of_allInMemory hmem
  refine firstFault_eq_none.2 ?_
  simp only [List.forall_mem_cons, Bool.and_eq_true, Bool.or_eq_true]
  exact ⟨cfgBlk_iff.2 ⟨cfgPic_iff.2 hpic, okBD_of_depth hdepthY, fun h => okBD_of_depth (hdepthC h)⟩,
    ⟨blockInPicture_iff.2 ⟨hsize, hinside⟩, chromaAligned_of_spec haligned⟩, hused, blockBasesEven_of_spec heven,
    ⟨hreads, hwrites⟩, by simp⟩

/-! ## The planes of MC_BLOCK (R170) -/

/-- By the shortcut both lists have one clipped vector, so that their predictions differ in the base only. -/
theorem pred1_of_sameMotion {s : State} (h : s.mv0 = s.mv1) (p : BlockPlane) :
    (s.specPlane p).pred1 = { (s.specPlane p).pred0 with refBase := (s.specPlane p).pred1.refBase } := by
  have hmv : s.clippedMv true = s.clippedMv false := h.symm
  cases p <;> simp [State.specPlane, State.blockPrediction, hmv]

theorem pred0_size (s : State) (p : BlockPlane) :
    (s.specPlane p).pred0.w = (s.specPlane p).w ∧ (s.specPlane p).pred0.h = (s.specPlane p).h := by
  cases p <;> exact ⟨rfl, rfl⟩

theorem blockSample_range (s : State) (p : BlockPlane) (r c : Int) :
    0 ≤ s.blockSample p r c ∧ s.blockSample p r c ≤ 65535 := by
  unfold State.blockSample
  cases s.predMode
  · exact predict_range _ _ _ _
  · exact predict_range _ _ _ _
  · exact average_bounds (predict_range _ _ _ _) (predict_range _ _ _ _)

/-- The samples of a plane's output block are 16-bit units of data memory. -/
theorem specPlane_units {s : State} (heven : Spec.BlockBasesEven s) (hmem : Spec.AllInMemory .mcBlock s) {n : Nat}
    {p : BlockPlane} (hp : s.blockPlanes[n]? = some p) :
    s.dstBase p % 2 = 0 ∧ ∀ r c : Nat, r < s.planeH p → c < s.planeW p → 0 ≤ (s.specPlane p).addr r c := by
  have hplane : s.specPlane p ∈ Spec.planes s := by
    rw [planes_eq]
    exact List.mem_map_of_mem (List.mem_of_getElem? hp)
  exact ⟨(heven _ hplane).1, fun r c hr hc => (hmem _ (.inr ⟨_, hplane, r, c, hr, hc, rfl⟩)).1⟩

/-- The stores of one plane, and those before and after it. -/
theorem blockStoreList_split {s : State} {n : Nat} {p : BlockPlane} (h : s.blockPlanes[n]? = some p) :
    ∃ before after, s.blockStoreList =
        before ++ (blockStores (s.dstBase p) (s.dstStride p) (s.planeW p) (s.planeH p) (s.blockSample p) ++ after) ∧
      ∀ x ∈ after, ∃ n' p', n < n' ∧ s.blockPlanes[n']? = some p' ∧
        ∃ r c : Nat, r < s.planeH p' ∧ c < s.planeW p' ∧ x.1 = (s.specPlane p').addr r c := by
  obtain ⟨hn, rfl⟩ := List.getElem?_eq_some_iff.1 h
  have hsplit : s.blockPlanes = s.blockPlanes.take n ++ s.blockPlanes[n] :: s.blockPlanes.drop (n + 1) := by simp
  refine ⟨_, _, (congrArg (List.flatMap _) hsplit).trans (List.flatMap_append.trans rfl), fun x hx => ?_⟩
  obtain ⟨p', hp', hx⟩ := List.mem_flatMap.1 hx
  obtain ⟨k, hk⟩ := List.mem_iff_getElem?.1 hp'
  rw [List.getElem?_drop] at hk
  exact ⟨_, p', by omega, hk, mem_blockAddrs.1 (fst_mem_blockAddrs hx)⟩

/-! ## The statements: tier 2 -/

/-- Settles O28: each split as division and remainder of the position. -/
theorem positionSplits : Obligations.PositionSplits := by
  unfold Obligations.PositionSplits
  refine ⟨fun x mv => ?_, fun x mv shift h => ?_, fun s => ?_⟩
  · have hfloor : ⌊(mv : ℚ) / 4⌋ = mv / 4 := Rat.floor_intCast_div_natCast mv 4
    rw [hfloor, lumaSplit_eq]
    omega
  · exact ⟨(chromaSplit_position shift x mv).1, (chromaSplit_position shift x mv).2, chromaSplit_phase h x mv⟩
  · refine ⟨fun h => by simp [State.ws, State.hs, h], fun h => by simp [State.ws, State.hs, h],
      fun h => by simp [State.ws, State.hs, h], hasChroma_iff, ?_, fun q => ⟨positionOf_luma, positionOf_chroma⟩⟩
    exact Nat.le_of_lt_succ (bits_lt _ _ _)

/-- Settles O29: the four cases of R144 with the luma filter at the luma position. -/
theorem lumaPredictionArithmetic : Obligations.LumaPredictionArithmetic := by
  unfold Obligations.LumaPredictionArithmetic
  intro s q r c hq
  rw [State.predict, predSample_eq, filterOf_luma hq, depthOf_luma hq, positionOf_luma hq, lumaSplit_eq, lumaSplit_eq]
  rfl

/-- Settles O30: the four cases of R144 with the chroma filter at the chroma position. -/
theorem chromaPredictionArithmetic : Obligations.ChromaPredictionArithmetic := by
  unfold Obligations.ChromaPredictionArithmetic
  intro s q r c hq
  rw [State.predict, predSample_eq, filterOf_chroma hq, depthOf_chroma hq, positionOf_chroma hq, chromaSplit_eq,
    chromaSplit_eq]
  rfl

/-- Settles O31: the read set is the window of the rules, and the write set the block at DST. -/
theorem predictionReadSet : Obligations.PredictionReadSet := by
  unfold Obligations.PredictionReadSet
  refine ⟨fun s q a _ _ => mem_predReads_iff_window, ?_⟩
  rintro s a i (rfl | rfl)
  · exact mem_commandWrites_iff
  · exact mem_commandWrites_iff

/-- Settles O32: a copied sample is one of the read set, and any other is clipped. -/
theorem predictionStaysInRange : Obligations.PredictionStaysInRange := by
  unfold Obligations.PredictionStaysInRange
  refine ⟨fun s q hreads r c hr hc => ?_, fun a b m ha ham hb hbm => average_bounds ⟨ha, ham⟩ ⟨hb, hbm⟩⟩
  refine predSample_bounds (by push_cast; exact le_rfl) fun hx hy => ⟨(Memory.read16_range _ _).1, ?_⟩
  exact hreads _ (mem_predReads.2 ⟨_, _, add_mem_axisReads hx hc, add_mem_axisReads hy hr, rfl⟩)

/-- Settles O33: the prediction is that of a constant reference, whose rows sum to 64. -/
theorem flatReferencePredictsFlat : Obligations.FlatReferencePredictsFlat := by
  unfold Obligations.FlatReferencePredictsFlat
  intro s q v hwf hbd hlo hhi hflat r c hr hc
  obtain ⟨hx, hy⟩ := filterOf_sumsTo64 hwf q
  rw [predict_eq_of_reads (ref := fun _ _ => v) (fun x y ha => hflat _ ha) hr hc]
  exact predSample_const hbd hlo (by push_cast; exact hhi) hx hy r c

/-- Settles O34: the unclipped values differ by at most 1, and the clip does not spread them. -/
theorem separableWithinOne : Obligations.SeparableWithinOne := by
  unfold Obligations.SeparableWithinOne
  intro bd f hbd
  simp only [asr_single, singleOffset]
  obtain ⟨hle, hge, heq⟩ := twoPassValue_near hbd f
  exact ⟨⟨clipS_sub_le (by omega) hle, clipS_sub_le (by omega) hge⟩, fun h8 => congrArg (clipS bd) (heq h8)⟩

/-- Settles O35: MC_BI_AVG stores one block, whose samples are averages of 16-bit samples. -/
theorem biAvgStoresTheRoundedAverage : Obligations.BiAvgStoresTheRoundedAverage := by
  unfold Obligations.BiAvgStoresTheRoundedAverage
  intro s hwf w h src0 src1 dst hsize ⟨h0, h1, hdst⟩ hrange
  have hmem := biAvg_allInMemory hrange
  have hexec := exec_storing (.inr (.inr (.inl rfl))) (faultMcBiAvg_eq_none hsize h0 h1 hdst hmem)
  refine ⟨_, hexec, rfl, fun a ha => ?_, fun r c hr hc hlast => ?_⟩
  · exact (commandsWriteOnlyTheirWriteSet _ s _ hexec).1 a fun x ⟨r, c, hr, hc, hx⟩ => hx ▸ ha r c hr hc
  · have hnonneg : ∀ r c : Nat, r < h → c < w → 0 ≤ dst r c := fun r c hr hc => (hmem _ (.inr ⟨r, c, hr, hc, rfl⟩)).1
    exact (read16_writeAll_blockStores hwf s.biSample hdst hnonneg hr hc hlast).trans
      (emod_of_sample (average_bounds (Memory.read16_range _ _) (Memory.read16_range _ _)))

/-- Settles O36: both commands store one block, whose samples are predictions. -/
theorem predCommandsStoreThePrediction : Obligations.PredCommandsStoreThePrediction := by
  unfold Obligations.PredCommandsStoreThePrediction
  intro s chroma hwf w h i dst hcfg hsize ⟨href, hdst⟩ hmem
  have hi : i = .mcPredLuma ∨ i = .mcPredChroma := by cases chroma <;> simp [i]
  have hwrites (x : Int) : Spec.Writes i s x ↔ Spec.Block s (s.u32 2) (s.u32 3) x := by
    rcases hi with h | h <;> rw [h] <;> rfl
  have heffect : (commandEffect i s).mem =
      s.mem.writeAll (blockStores (s.u32 2) (s.u32 3) w h (s.predict (s.predCommand chroma))) := by cases chroma <;> rfl
  have hexec := exec_storing (hi.imp_right .inl) (faultMcPred_eq_none hcfg hsize href hdst hmem)
  refine ⟨_, hexec, rfl, fun a ha => ?_, fun r c hr hc hlast => ?_⟩
  · refine (commandsWriteOnlyTheirWriteSet _ s _ hexec).1 a fun x hx => ?_
    obtain ⟨r, c, hr, hc, rfl⟩ := (hwrites x).1 hx
    exact ha r c hr hc
  · have hnonneg : ∀ r c : Nat, r < h → c < w → 0 ≤ dst r c := fun r c hr hc =>
      (hmem _ (.inr ((hwrites _).2 ⟨r, c, hr, hc, rfl⟩))).1
    rw [heffect]
    exact (read16_writeAll_blockStores hwf _ hdst hnonneg hr hc hlast).trans (emod_of_sample (predict_range _ _ _ _))

/-- Settles O38: the bounds of R165 on each axis. -/
theorem clippedReadsStayInTheExtendedPicture : Obligations.ClippedReadsStayInTheExtendedPicture := by
  unfold Obligations.ClippedReadsStayInTheExtendedPicture
  intro s mv hpic hinside m xi yi cu
  obtain ⟨-, hx, hy, hright, hbottom⟩ := blockInPicture_iff.1 hinside
  obtain ⟨-, -, -, -, hctu, -, -⟩ := cfgPic_iff.1 hpic
  have hcu : 4 ≤ s.maxCu := Nat.pow_le_pow_right (n := 2) (by omega) hctu
  have hcast : cu = (s.maxCu : Int) := by simp [cu, State.maxCu]
  obtain ⟨hleft', hright'⟩ := clipComponent_reads hcu hright hx mv.x
  obtain ⟨htop', hbottom'⟩ := clipComponent_reads hcu hbottom hy mv.y
  rw [hcast]
  exact ⟨hleft', hright', htop', hbottom'⟩

/-- Settles O40: both predictions are equal, and so is their average. -/
theorem shortcutIsInvisible : Obligations.ShortcutIsInvisible := by
  unfold Obligations.ShortcutIsInvisible
  intro s r c h0 h1 hmode p hp hr hc hsame
  rw [planes_eq] at hp
  obtain ⟨p, -, rfl⟩ := List.mem_map.1 hp
  have hmotion : s.sameMotion = true := by
    by_contra hne
    rw [predMode_of_both h0 h1, if_neg hne] at hmode
    cases hmode
  obtain ⟨hw, hh⟩ := pred0_size s p
  have heq := predict_withBase hsame (hh ▸ hr) (hw ▸ hc)
  rw [← pred1_of_sameMotion (sameMotion_iff.1 hmotion).2] at heq
  rw [← average_eq, ← heq, average_self]

/-- Settles O41: MC_BLOCK stores the planes' blocks one after another, each with the sample of the mode. -/
theorem blockStoresEveryPlane : Obligations.BlockStoresEveryPlane := by
  unfold Obligations.BlockStoresEveryPlane
  intro s hwf hpic hdepthY hdepthC hsize hinside haligned hused heven hmem planes
  have hexec := exec_storing (.inr (.inr (.inr rfl)))
    (faultMcBlock_eq_none hpic hdepthY hdepthC hsize hinside haligned hused heven hmem)
  refine ⟨_, hexec, rfl, fun a ha => ?_, fun n q hq r c hr hc hlast => ?_⟩
  · exact (commandsWriteOnlyTheirWriteSet _ s _ hexec).1 a fun x ⟨p, hp, r, c, hr, hc, hx⟩ => hx ▸ ha p hp r c hr hc
  · have hplanes : planes = s.blockPlanes.map s.specPlane := planes_eq s
    simp only [hplanes, List.getElem?_map, Option.map_eq_some_iff] at hq hlast
    obtain ⟨p, hp, rfl⟩ := hq
    obtain ⟨hbase, hblock⟩ := specPlane_units heven hmem hp
    obtain ⟨before, after, hstores, hlater⟩ := blockStoreList_split hp
    have heffect : (commandEffect .mcBlock s).mem = s.mem.writeAll s.blockStoreList := rfl
    rw [heffect, hstores]
    have hafter : ∀ x ∈ after, 0 ≤ x.1 ∧ x.1 % 2 = 0 ∧ x.1 ≠ (s.specPlane p).addr r c := fun x hx => by
      obtain ⟨n', p', hn, hp', r', c', hr', hc', hx⟩ := hlater x hx
      obtain ⟨hbase', hblock'⟩ := specPlane_units heven hmem hp'
      rw [hx]
      exact ⟨hblock' r' c' hr' hc', sampleAddr_even hbase' _ _ _, hlast n' _ ⟨p', hp', rfl⟩ r' c' hr' hc' (.inl hn)⟩
    have hown : ∀ r' c' : Nat, r' < s.planeH p → c' < s.planeW p → r < r' ∨ (r = r' ∧ c < c') →
        (s.specPlane p).addr r' c' ≠ (s.specPlane p).addr r c :=
      fun r' c' hr' hc' h => hlast n _ ⟨p, hp, rfl⟩ r' c' hr' hc' (.inr ⟨rfl, h⟩)
    refine (read16_writeAll_block hwf (s.blockSample p) before hbase hblock hr hc hown hafter).trans
      ((emod_of_sample (blockSample_range _ _ _ _)).trans ?_)
    unfold State.blockSample
    cases s.predMode <;> rfl

/-! ## The statements: tier 1 -/

/-- Settles O37: the checks hold, and the clip of the rule is the model's. -/
theorem mvClipStoresTheClippedVector : Obligations.MvClipStoresTheClippedVector := by
  unfold Obligations.MvClipStoresTheClippedVector
  intro s hpic x y w h hsize hinside cu
  have hruns : commandFault .mcMvClip s = none := firstFault_eq_none.2 (by
    simp only [List.forall_mem_cons]
    exact ⟨hpic, blockInPicture_iff.2 ⟨hsize, hinside⟩, by simp⟩)
  have hclip : s.clippedOperand = Spec.mvClip s ⟨s.s32 6, s.s32 7⟩ := (specMvClip_eq s _).symm
  rw [exec_of_runs hruns, commandEffect, effectMcMvClip, hclip]
  rfl

/-- Settles O39: the cases of R170, and the vectors compared by the shortcut as the rule clips them. -/
theorem blockModeAndShortcut : Obligations.BlockModeAndShortcut := by
  unfold Obligations.BlockModeAndShortcut
  intro s use0 use1 cu clip
  have hclip (mv : Mv) : s.mvClip mv = ⟨(clip mv.x mv.y).1, (clip mv.x mv.y).2⟩ := (specMvClip_eq s mv).symm
  have hmotion : s.sameMotion = true ↔
      s.s32 11 = s.s32 12 ∧ clip (s.s32 6) (s.s32 7) = clip (s.s32 13) (s.s32 14) := by
    rw [sameMotion_iff, State.mv0, State.mv1, hclip, hclip, Mv.mk.injEq, ← Prod.ext_iff]
    rfl
  refine ⟨fun (h0 : s.use0 = true) (h1 : s.use1 = false) => by simp [State.predMode, h0, h1],
    fun (h0 : s.use0 = false) (h1 : s.use1 = true) => by simp [State.predMode, h0, h1], fun h0 h1 => ?_, hclip⟩
  rw [← hmotion, predMode_of_both h0 h1]
  cases s.sameMotion <;> decide

end Sys2Proof.Machine

/-! # Deblocking (41_deblock.md): the boundary strength of two records, thresholds and the chroma QP, the line filters and
what a filtered line leaves of memory, the lines of a CU's edge, and the statements these settle -/

namespace Sys2Proof.Machine

/-! ## Reference pictures and boundary strength (R191, R192) -/

theorem picOf_of_neg {i : Int} (h : i < 0) (poc : Vector Word 16) : picOf poc i = some none := if_pos h

theorem picOf_of_index (poc : Vector Word 16) (k : Fin 16) : picOf poc k.val = some (some (poc[k]).toInt) := by
  simp [picOf, sext32]

theorem picOf_of_ge {i : Int} (h : 16 ≤ i) (poc : Vector Word 16) : picOf poc i = none := by
  have hout : poc[i.toNat]? = none := Vector.getElem?_eq_none (by omega)
  rw [picOf, if_neg (by omega), hout]

theorem exists_picOf {i : Int} (h : ¬16 ≤ i) (poc : Vector Word 16) : ∃ p, picOf poc i = some p := by
  by_cases hneg : i < 0
  · exact ⟨_, picOf_of_neg hneg poc⟩
  · have hindex : i = ((⟨i.toNat, by omega⟩ : Fin 16).val : Int) := by simp only; omega
    exact ⟨_, (congrArg (picOf poc) hindex).trans (picOf_of_index poc _)⟩

theorem near_iff {a b : Mv} : near a b = true ↔ (a.x - b.x).natAbs < 4 ∧ (a.y - b.y).natAbs < 4 := by
  rw [near, Bool.and_eq_true, decide_eq_true_iff, decide_eq_true_iff, iabs, iabs]
  omega

theorem near_comm (a b : Mv) : near a b = near b a := by
  rw [Bool.eq_iff_iff, near_iff, near_iff]
  omega

theorem motionClass_eq_three_iff {p0 p1 q0 q1 : Picture} {p q : Meta} :
    motionClass p0 p1 q0 q1 p q = 3 ↔
      (p0 = q0 ∧ p1 = q1 ∧ (p0 = none ∨ near p.mv0 q.mv0 = true) ∧ (p1 = none ∨ near p.mv1 q.mv1 = true)) ∨
      (p0 = q1 ∧ p1 = q0 ∧ (p0 = none ∨ near p.mv0 q.mv1 = true) ∧ (p1 = none ∨ near p.mv1 q.mv0 = true)) := by
  have hite (c : Prop) [Decidable c] : (if c then 3 else 2) = 3 ↔ c := by split <;> simp [*]
  simp only [motionClass, hite, Bool.or_eq_true, Bool.and_eq_true, beq_iff_eq, and_assoc]

theorem motionClass_cases (p0 p1 q0 q1 : Picture) (p q : Meta) :
    motionClass p0 p1 q0 q1 p q = 2 ∨ motionClass p0 p1 q0 q1 p q = 3 := by
  simp only [motionClass]
  split
  · exact .inr rfl
  · exact .inl rfl

/-- The straight arrangement is its own mirror; in the crossed one the two lists change places. -/
theorem motionClass_eq_three_symm {p0 p1 q0 q1 : Picture} {p q : Meta} (h : motionClass p0 p1 q0 q1 p q = 3) :
    motionClass q0 q1 p0 p1 q p = 3 := by
  rw [motionClass_eq_three_iff, near_comm q.mv0, near_comm q.mv1, near_comm q.mv0, near_comm q.mv1]
  rcases motionClass_eq_three_iff.1 h with ⟨rfl, rfl, h0, h1⟩ | ⟨rfl, rfl, h0, h1⟩
  · exact .inl ⟨rfl, rfl, h0, h1⟩
  · exact .inr ⟨rfl, rfl, h1, h0⟩

theorem motionClass_comm (p0 p1 q0 q1 : Picture) (p q : Meta) :
    motionClass p0 p1 q0 q1 p q = motionClass q0 q1 p0 p1 q p := by
  rcases motionClass_cases p0 p1 q0 q1 p q with h | h
  · rcases motionClass_cases q0 q1 p0 p1 q p with h' | h'
    · rw [h, h']
    · rw [motionClass_eq_three_symm h', h']
  · rw [h, motionClass_eq_three_symm h]

theorem bs_of_intra {p q : Meta} (h : p.intra = true ∨ q.intra = true) (s : State) : s.bs p q = some 0 :=
  if_pos (Bool.or_eq_true_iff.2 h)

theorem bs_of_residual {p q : Meta} (hp : p.intra = false) (hq : q.intra = false) (h : p.cbf = true ∨ q.cbf = true)
    (s : State) : s.bs p q = some 1 := by
  simp only [State.bs, hp, hq, Bool.or_self, Bool.false_eq_true, if_false]
  exact if_pos (Bool.or_eq_true_iff.2 h)

/-- Two records classified by their motion (R192): neither is intra and neither has a residual. -/
def ByMotion (p q : Meta) : Prop := p.intra = false ∧ q.intra = false ∧ p.cbf = false ∧ q.cbf = false

/-- Such records have an index without a picture, on one of the four lookups. -/
def LacksPicture (p q : Meta) : Prop := 16 ≤ p.refi0 ∨ 16 ≤ p.refi1 ∨ 16 ≤ q.refi0 ∨ 16 ≤ q.refi1

theorem ByMotion.symm {p q : Meta} (h : ByMotion p q) : ByMotion q p := by
  obtain ⟨hp, hq, hpc, hqc⟩ := h
  exact ⟨hq, hp, hqc, hpc⟩

theorem LacksPicture.symm {p q : Meta} (h : LacksPicture p q) : LacksPicture q p := by
  unfold LacksPicture at *
  omega

/-- The three ways of a classification, tried in order (R192). -/
theorem class_cases (p q : Meta) :
    (p.intra = true ∨ q.intra = true) ∨
    (p.intra = false ∧ q.intra = false ∧ (p.cbf = true ∨ q.cbf = true)) ∨ ByMotion p q := by
  by_cases hintra : p.intra = true ∨ q.intra = true
  · exact .inl hintra
  simp only [not_or, Bool.not_eq_true] at hintra
  obtain ⟨hp, hq⟩ := hintra
  by_cases hcbf : p.cbf = true ∨ q.cbf = true
  · exact .inr (.inl ⟨hp, hq, hcbf⟩)
  simp only [not_or, Bool.not_eq_true] at hcbf
  exact .inr (.inr ⟨hp, hq, hcbf⟩)

theorem exists_pictures {p q : Meta} (h : ¬LacksPicture p q) (s : State) :
    ∃ p0 p1 q0 q1, picOf s.refPoc0 p.refi0 = some p0 ∧ picOf s.refPoc1 p.refi1 = some p1 ∧
      picOf s.refPoc0 q.refi0 = some q0 ∧ picOf s.refPoc1 q.refi1 = some q1 := by
  simp only [LacksPicture, not_or] at h
  obtain ⟨hp0, hp1, hq0, hq1⟩ := h
  obtain ⟨p0, hp0⟩ := exists_picOf hp0 s.refPoc0
  obtain ⟨p1, hp1⟩ := exists_picOf hp1 s.refPoc1
  obtain ⟨q0, hq0⟩ := exists_picOf hq0 s.refPoc0
  obtain ⟨q1, hq1⟩ := exists_picOf hq1 s.refPoc1
  exact ⟨p0, p1, q0, q1, hp0, hp1, hq0, hq1⟩

section
variable {s : State} {p q : Meta} (hm : ByMotion p q)
include hm

theorem bs_of_pictures {p0 p1 q0 q1 : Picture} (hp0 : picOf s.refPoc0 p.refi0 = some p0)
    (hp1 : picOf s.refPoc1 p.refi1 = some p1) (hq0 : picOf s.refPoc0 q.refi0 = some q0)
    (hq1 : picOf s.refPoc1 q.refi1 = some q1) : s.bs p q = some (motionClass p0 p1 q0 q1 p q) := by
  obtain ⟨hp, hq, hpc, hqc⟩ := hm
  simp [State.bs, hp, hq, hpc, hqc, hp0, hp1, hq0, hq1]

theorem bs_of_lacksPicture (h : LacksPicture p q) : s.bs p q = none := by
  obtain ⟨hp, hq, hpc, hqc⟩ := hm
  simp only [State.bs, hp, hq, hpc, hqc, Bool.or_self, Bool.false_eq_true, if_false]
  rcases h with h | h | h | h <;> simp [picOf_of_ge h]

theorem bs_eq_none_iff : s.bs p q = none ↔ LacksPicture p q := by
  refine ⟨fun hnone => ?_, bs_of_lacksPicture hm⟩
  by_contra h
  obtain ⟨p0, p1, q0, q1, hp0, hp1, hq0, hq1⟩ := exists_pictures h s
  rw [bs_of_pictures hm hp0 hp1 hq0 hq1] at hnone
  cases hnone

theorem bs_comm_of_byMotion : s.bs p q = s.bs q p := by
  by_cases h : LacksPicture p q
  · rw [bs_of_lacksPicture hm h, bs_of_lacksPicture hm.symm h.symm]
  · obtain ⟨p0, p1, q0, q1, hp0, hp1, hq0, hq1⟩ := exists_pictures h s
    rw [bs_of_pictures hm hp0 hp1 hq0 hq1, bs_of_pictures hm.symm hq0 hq1 hp0 hp1, motionClass_comm]

end

/-- R195: the class does not depend on which record is called P. -/
theorem bs_comm (s : State) (p q : Meta) : s.bs p q = s.bs q p := by
  rcases class_cases p q with h | ⟨hp, hq, h⟩ | h
  · rw [bs_of_intra h, bs_of_intra h.symm]
  · rw [bs_of_residual hp hq h, bs_of_residual hq hp h.symm]
  · exact bs_comm_of_byMotion h

/-! ## Map records (R79) -/

/-- Two bytes read as a 16-bit value are their concatenation, the higher address first. -/
theorem sext16_bytes (lo hi : Byte) : sext16 ((lo.toNat : Int) + 256 * hi.toNat) = (hi ++ lo).toInt := by
  refine congrArg BitVec.toInt (BitVec.eq_of_toNat_eq ?_)
  rw [BitVec.toNat_ofInt, BitVec.toNat_append, ← Nat.shiftLeft_add_eq_or_of_lt lo.isLt, Nat.shiftLeft_eq]
  have hlo := lo.isLt
  have hhi := hi.isLt
  omega

theorem sext8_read8 (m : Memory) (r i : Nat) : sext8 (m.read8 (r + i)) = (m.read (r + i)).toInt := rfl

theorem sext16_read16 (m : Memory) (r i : Nat) :
    sext16 (m.read16 (r + i)) = (m.read (r + (i + 1)) ++ m.read (r + i)).toInt := sext16_bytes _ _

/-! ## Thresholds and the chroma QP (R194, R204) -/

/-- A table of thresholds has an entry for each QP of its domain (R12). -/
theorem dfSt_length_of_wf {p : Config.Params} (h : p.wf = true) (c : Fin 4) :
    (p.dfSt[c]).length = (p.dfQpMax - p.dfQpMin + 1).toNat := by
  simp only [Config.Params.wf, Bool.and_eq_true, List.all_eq_true, beq_iff_eq] at h
  obtain ⟨-, htables⟩ := h
  exact htables _ (Vector.mem_toList_iff.2 (Vector.getElem_mem c.isLt))

theorem thr_of_outside {s : State} {q : Int} (h : q < s.params.dfQpMin ∨ s.params.dfQpMax < q) (c bd : Nat) :
    s.thr c q bd = none := by
  rw [State.thr, dfSt, if_neg (by omega), Option.map_none]

theorem thr_of_inside {s : State} {c : Fin 4} {k v : Nat} {q : Int} (hq : q = s.params.dfQpMin + k)
    (hmax : q ≤ s.params.dfQpMax) (hv : (s.params.dfSt[c])[k]? = some v) (bd : Nat) :
    s.thr c q bd = some (v * 2 ^ dfShift s.params bd) := by
  have hindex : (q - s.params.dfQpMin).toNat = k := by omega
  have htable : s.params.dfSt[(c : Nat)]?.getD [] = s.params.dfSt[c] := by simp
  rw [State.thr, dfSt, if_pos (by omega), hindex, htable, hv]
  rfl

theorem dfShift_of_okBD {bd : Nat} (h : okBD bd = true) (p : Config.Params) :
    p.dfShift[bd - 8]? = some (dfShift p bd) := by
  have hlt : bd - 8 < 7 := by
    have := okBD_iff.1 h
    omega
  simp [dfShift, hlt]

/-- The clipped QP of a legal bit depth is in the domain of CHROMA_QP_MAP (log 10). -/
theorem qpcClip_mem {s : State} (h : okBD s.bitDepthC = true) (q : Int) (pl : ChromaPlane) :
    -36 ≤ s.qpcClip q pl ∧ s.qpcClip q pl ≤ 57 := by
  have hbd := okBD_iff.1 h
  have hclip : -6 * ((s.bitDepthC : Int) - 8) ≤ s.qpcClip q pl ∧ s.qpcClip q pl ≤ 57 := clip3_mem (by omega) _
  omega

theorem qpc_eq_getElem {s : State} {q : Int} {pl : ChromaPlane} {k : Fin 94} (h : (k.val : Int) = s.qpcClip q pl + 36) :
    s.qpc q pl = (qpMap s.params pl)[k] := by
  simp [State.qpc, ← h]

/-! ## The line filters (R196 to R199, R201, R203) -/

theorem sgn_eq_sign (a : Int) : sgn a = a.sign := by
  unfold sgn
  split_ifs with hneg hzero
  · exact (Int.sign_eq_neg_one_of_neg hneg).symm
  · rw [hzero, Int.sign_zero]
  · exact (Int.sign_eq_one_of_pos (by omega)).symm

theorem clip3_neg {b : Int} (h : 0 ≤ b) (v : Int) : clip3 (-b) b (-v) = -clip3 (-b) b v := by
  unfold clip3
  omega

theorem edgeClamp_nonneg (d st : Int) : 0 ≤ edgeClamp d st := le_max_left _ _

theorem edgeClamp_neg (d st : Int) : edgeClamp (-d) st = edgeClamp d st := by simp only [edgeClamp, iabs_neg]

theorem edgeClamp_of_le {d st : Int} (h : (d.natAbs : Int) ≤ st) : edgeClamp d st = d.natAbs := by
  unfold edgeClamp iabs
  omega

theorem edgeClamp_of_between {d st : Int} (hlo : st < d.natAbs) (hhi : (d.natAbs : Int) < 2 * st) :
    edgeClamp d st = 2 * st - d.natAbs := by
  unfold edgeClamp iabs
  omega

theorem edgeClamp_of_ge {d st : Int} (h : 2 * st ≤ d.natAbs) : edgeClamp d st = 0 := by
  unfold edgeClamp iabs
  omega

theorem edgeClamp_zero (st : Int) : edgeClamp 0 st = 0 := by
  unfold edgeClamp iabs
  omega

theorem edgeDelta_swap (a b c d : Int) : edgeDelta d c b a = -edgeDelta a b c d := by
  rw [edgeDelta, edgeDelta, ← tdiv_neg_left]
  congr 1
  ring

theorem edgeDelta_flat (v : Int) : edgeDelta v v v v = 0 := by
  have h : v - 4 * v + 4 * v - v = 0 := by ring
  rw [edgeDelta, h]
  rfl

theorem edgeD1_neg (d st : Int) : edgeD1 (-d) st = -edgeD1 d st := by
  rw [edgeD1, edgeD1, sgn_neg, edgeClamp_neg, neg_mul]

theorem edgeD2_swap {cl : Int} (h : 0 ≤ cl) (a d : Int) : edgeD2 cl d a = -edgeD2 cl a d := by
  rw [edgeD2, edgeD2, ← neg_sub a d, tdiv_neg_left, clip3_neg (by rw [asr_one]; omega)]

/-- A clamp of 0 leaves all four samples. -/
theorem edgeD2_zero (a d : Int) : edgeD2 0 a d = 0 := by
  simp only [edgeD2, asr_one, clip3]
  omega

theorem edgeD2_eq {cl : Int} (h : 0 ≤ cl) (a d : Int) :
    edgeD2 cl a d = max (-(cl / 2)) (min (cl / 2) ((a - d).tdiv 4)) := by
  simp only [edgeD2, asr_one, clip3, tdiv]
  omega

/-- R196: the luma filter with its four corrections named. -/
theorem filterLuma_eq (l : Line) (st : Int) (bd : Nat) :
    filterLuma l st bd =
      ⟨clipS bd (l.a - edgeD2 (edgeClamp (edgeDelta l.a l.b l.c l.d) st) l.a l.d),
        clipS bd (l.b + edgeD1 (edgeDelta l.a l.b l.c l.d) st), clipS bd (l.c - edgeD1 (edgeDelta l.a l.b l.c l.d) st),
        clipS bd (l.d + edgeD2 (edgeClamp (edgeDelta l.a l.b l.c l.d) st) l.a l.d)⟩ := rfl

/-- R197: the chroma filter is the luma filter's middle. -/
theorem filterChroma_eq (l : Line) (st : Int) (bd : Nat) :
    filterChroma l st bd = ((filterLuma l st bd).b, (filterLuma l st bd).c) := rfl

/-- The line read from its other side. -/
def Line.mirror (l : Line) : Line := ⟨l.d, l.c, l.b, l.a⟩

/-- R199: both corrections change their sign, and the samples their places. -/
theorem filterLuma_mirror (l : Line) (st : Int) (bd : Nat) :
    filterLuma l.mirror st bd = (filterLuma l st bd).mirror := by
  simp only [filterLuma_eq, Line.mirror, edgeDelta_swap l.a, edgeClamp_neg, edgeD1_neg,
    edgeD2_swap (edgeClamp_nonneg _ _) l.a, sub_neg_eq_add, ← sub_eq_add_neg]

theorem filterLuma_mem (l : Line) (st : Int) (bd : Nat) :
    ∀ x ∈ [(filterLuma l st bd).a, (filterLuma l st bd).b, (filterLuma l st bd).c, (filterLuma l st bd).d],
      0 ≤ x ∧ x ≤ 2 ^ bd - 1 := by
  have hclip (v : Int) : 0 ≤ clipS bd v ∧ clipS bd v ≤ 2 ^ bd - 1 := by simpa using clipS_mem bd v
  simp only [filterLuma_eq, List.forall_mem_cons]
  exact ⟨hclip _, hclip _, hclip _, hclip _, by simp⟩

/-- The clamp is 0 where the threshold is (R201) and on a flat line (R203). -/
theorem edgeClamp_eq_zero {l : Line} {st : Int} (h : st = 0 ∨ (l.a = l.b ∧ l.b = l.c ∧ l.c = l.d)) :
    edgeClamp (edgeDelta l.a l.b l.c l.d) st = 0 := by
  rcases h with rfl | ⟨hab, hbc, hcd⟩
  · exact edgeClamp_of_ge (by omega)
  · rw [hab, hbc, hcd, edgeDelta_flat, edgeClamp_zero]

/-- A clamp of 0 leaves the samples but for their clip. -/
theorem filterLuma_of_clamp_zero {l : Line} {st : Int} (h : edgeClamp (edgeDelta l.a l.b l.c l.d) st = 0) (bd : Nat) :
    filterLuma l st bd = ⟨clipS bd l.a, clipS bd l.b, clipS bd l.c, clipS bd l.d⟩ := by
  rw [filterLuma_eq, edgeD1, h, edgeD2_zero, mul_zero, sub_zero, add_zero, sub_zero, add_zero]

/-- R201, R203: a zero threshold leaves every line in range, and every threshold leaves a flat one. -/
theorem filterLuma_eq_self {l : Line} {st : Int} {bd : Nat}
    (hrange : ∀ x ∈ [l.a, l.b, l.c, l.d], 0 ≤ x ∧ x ≤ 2 ^ bd - 1)
    (h : st = 0 ∨ (l.a = l.b ∧ l.b = l.c ∧ l.c = l.d)) : filterLuma l st bd = l := by
  have hclip : ∀ x ∈ [l.a, l.b, l.c, l.d], clipS bd x = x := fun x hx =>
    clipS_eq (hrange x hx).1 (by simpa using (hrange x hx).2)
  simp only [List.forall_mem_cons] at hclip
  obtain ⟨ha, hb, hc, hd, -⟩ := hclip
  rw [filterLuma_of_clamp_zero (edgeClamp_eq_zero h), ha, hb, hc, hd]

/-! ## A filtered line in memory (R200, R202) -/

/-- Storing what a unit holds leaves a canonical memory as it is. -/
theorem Memory.write16_read16 {m : Memory} (hm : m.wf) (a : Int) : m.write16 a (m.read16 a) = m := by
  have hlow := (m.read a.toNat).isLt
  have hhigh := (m.read (a.toNat + 1)).isLt
  refine ext_of_read (wf_write16 hm _ _) hm fun x => ?_
  by_cases hx : x = a.toNat
  · rw [hx, read_write16_low hm]
    refine BitVec.eq_of_toNat_eq ?_
    rw [BitVec.toNat_ofInt, read16]
    omega
  by_cases hx' : x = a.toNat + 1
  · rw [hx', read_write16_high hm]
    refine BitVec.eq_of_toNat_eq ?_
    rw [BitVec.toNat_ofInt, asr_eq_div, read16]
    omega
  · exact read_write16_ne hx hx'

theorem Memory.writeAll_eq_self {m : Memory} (hm : m.wf) {ws : List (Int × Int)} (h : ∀ w ∈ ws, w.2 = m.read16 w.1) :
    m.writeAll ws = m := by
  induction ws with
  | nil => rfl
  | cons w ws ih =>
    obtain ⟨hw, hws⟩ := List.forall_mem_cons.1 h
    rw [writeAll, List.foldl_cons, hw, write16_read16 hm]
    exact ih hws

theorem EdgeLine.stores_of_luma {e : EdgeLine} (h : e.luma = true) (m : Memory) :
    e.stores m =
      [(e.aA, (filterLuma (e.load m) e.st e.bd).a), (e.aB, (filterLuma (e.load m) e.st e.bd).b),
        (e.aC, (filterLuma (e.load m) e.st e.bd).c), (e.aD, (filterLuma (e.load m) e.st e.bd).d)] := if_pos h

theorem EdgeLine.stores_of_chroma {e : EdgeLine} (h : e.luma = false) (m : Memory) :
    e.stores m =
      [(e.aB, (filterChroma (e.load m) e.st e.bd).1), (e.aC, (filterChroma (e.load m) e.st e.bd).2)] := by
  simp [EdgeLine.stores, h]

/-- A line that its filter leaves is left in memory. -/
theorem filterLine_eq_self {m : Memory} (hm : m.wf) {e : EdgeLine} (h : filterLuma (e.load m) e.st e.bd = e.load m) :
    filterLine m e = m := by
  refine Memory.writeAll_eq_self hm ?_
  cases hluma : e.luma
  · rw [e.stores_of_chroma hluma, filterChroma_eq, h]
    simp [EdgeLine.load]
  · rw [e.stores_of_luma hluma, h]
    simp [EdgeLine.load]

/-- The samples of a line are one value in the range of its bit depth. -/
def EdgeLine.Flat (m : Memory) (v : Int) (e : EdgeLine) : Prop :=
  (0 ≤ v ∧ v ≤ 2 ^ e.bd - 1) ∧ ∀ a ∈ e.reads, m.read16 a = v

theorem EdgeLine.Flat.load_eq {m : Memory} {v : Int} {e : EdgeLine} (h : e.Flat m v) : e.load m = ⟨v, v, v, v⟩ := by
  obtain ⟨-, hreads⟩ := h
  simp only [EdgeLine.reads, List.forall_mem_cons] at hreads
  obtain ⟨ha, hb, hc, hd, -⟩ := hreads
  rw [EdgeLine.load, ha, hb, hc, hd]

theorem filterLine_of_flat {m : Memory} (hm : m.wf) {v : Int} {e : EdgeLine} (h : e.Flat m v) : filterLine m e = m := by
  refine filterLine_eq_self hm ?_
  rw [h.load_eq]
  exact filterLuma_eq_self (by simpa using h.1) (.inr ⟨rfl, rfl, rfl⟩)

theorem filterLines_of_flat {m : Memory} (hm : m.wf) {v : Int} {es : List EdgeLine} (h : ∀ e ∈ es, e.Flat m v) :
    filterLines m es = m := by
  induction es with
  | nil => rfl
  | cons e es ih =>
    obtain ⟨he, hes⟩ := List.forall_mem_cons.1 h
    rw [filterLines_cons, filterLine_of_flat hm he, ih hes]

/-- A clipped sample fits its 16-bit unit. -/
theorem clipS_sample {bd : Nat} (h : bd ≤ 16) (v : Int) : 0 ≤ clipS bd v ∧ clipS bd v ≤ 65535 := by
  have hclip := clipS_mem bd v
  have hpow : 2 ^ bd ≤ 2 ^ 16 := Nat.pow_le_pow_right (by omega) h
  omega

/-- Of a line's stores the last one to a unit stays (R17). -/
theorem read16_filterLine {m : Memory} (hm : m.wf) {e : EdgeLine} (hunits : ∀ a ∈ e.reads, 0 ≤ a ∧ a % 2 = 0)
    {before after : List (Int × Int)} {a v : Int} (hstores : e.stores m = before ++ (a, v) :: after)
    (hlast : ∀ w ∈ after, w.1 ≠ a) (hv : 0 ≤ v ∧ v ≤ 65535) : (filterLine m e).read16 a = v := by
  have hunit : ∀ w ∈ e.stores m, 0 ≤ w.1 ∧ w.1 % 2 = 0 := fun w hw =>
    hunits _ (EdgeLine.writes_sub_reads (EdgeLine.fst_mem_writes hw))
  rw [hstores] at hunit
  obtain ⟨ha, ha2⟩ := hunit (a, v) (by simp)
  rw [filterLine, hstores, Memory.read16_writeAll_last hm ha ha2, emod_of_sample hv]
  intro w hw
  obtain ⟨hw0, hw2⟩ := hunit w (by simp [hw])
  exact ⟨hw0, hw2, hlast w hw⟩

section
variable {m : Memory} {e : EdgeLine} (hm : m.wf) (hbd : e.bd ≤ 16) (hunits : ∀ a ∈ e.reads, 0 ≤ a ∧ a % 2 = 0)
include hm hbd hunits

/-- R200: what a luma line leaves at its four samples. -/
theorem read16_filterLine_luma (hluma : e.luma = true) :
    (filterLine m e).read16 e.aD = (filterLuma (e.load m) e.st e.bd).d ∧
    (e.aC ≠ e.aD → (filterLine m e).read16 e.aC = (filterLuma (e.load m) e.st e.bd).c) ∧
    (e.aB ≠ e.aC → e.aB ≠ e.aD → (filterLine m e).read16 e.aB = (filterLuma (e.load m) e.st e.bd).b) ∧
    (e.aA ≠ e.aB → e.aA ≠ e.aC → e.aA ≠ e.aD →
      (filterLine m e).read16 e.aA = (filterLuma (e.load m) e.st e.bd).a) := by
  have hstores := e.stores_of_luma hluma m
  refine ⟨?_, fun hCD => ?_, fun hBC hBD => ?_, fun hAB hAC hAD => ?_⟩
  · exact read16_filterLine hm hunits (before := [_, _, _]) hstores (by simp) (clipS_sample hbd _)
  · exact read16_filterLine hm hunits (before := [_, _]) hstores (by simp [hCD.symm]) (clipS_sample hbd _)
  · exact read16_filterLine hm hunits (before := [_]) hstores (by simp [hBC.symm, hBD.symm]) (clipS_sample hbd _)
  · exact read16_filterLine hm hunits (before := []) hstores (by simp [hAB.symm, hAC.symm, hAD.symm])
      (clipS_sample hbd _)

/-- R202: what a chroma line leaves at its two inner samples. -/
theorem read16_filterLine_chroma (hluma : e.luma = false) :
    (filterLine m e).read16 e.aC = (filterChroma (e.load m) e.st e.bd).2 ∧
    (e.aB ≠ e.aC → (filterLine m e).read16 e.aB = (filterChroma (e.load m) e.st e.bd).1) := by
  have hstores := e.stores_of_chroma hluma m
  refine ⟨?_, fun hBC => ?_⟩
  · exact read16_filterLine hm hunits (before := [_]) hstores (by simp) (clipS_sample hbd _)
  · exact read16_filterLine hm hunits (before := []) hstores (by simp [hBC.symm]) (clipS_sample hbd _)

/-- Where the four samples are one the line is flat, and the last store is its clip. -/
theorem read16_filterLine_of_one (hAB : e.aA = e.aB) (hBC : e.aB = e.aC) (hCD : e.aC = e.aD) :
    (filterLine m e).read16 e.aA = clipS e.bd (m.read16 e.aA) := by
  have hflat : filterLuma (e.load m) e.st e.bd =
      ⟨clipS e.bd (m.read16 e.aA), clipS e.bd (m.read16 e.aB), clipS e.bd (m.read16 e.aC), clipS e.bd (m.read16 e.aD)⟩ :=
    filterLuma_of_clamp_zero
      (edgeClamp_eq_zero (.inr ⟨congrArg m.read16 hAB, congrArg m.read16 hBC, congrArg m.read16 hCD⟩)) e.bd
  have hAC : e.aA = e.aC := hAB.trans hBC
  cases hluma : e.luma
  · obtain ⟨hC, -⟩ := read16_filterLine_chroma hm hbd hunits hluma
    rw [hAC, hC, filterChroma_eq, hflat]
  · obtain ⟨hD, -⟩ := read16_filterLine_luma hm hbd hunits hluma
    rw [hAC.trans hCD, hD, hflat]

end

/-! ## The commands of direct edges (R200, R202) -/

/-- The checks that DF_EDGE_LUMA and DF_EDGE_CHROMA share (R125). -/
theorem edgeFault_eq_none {configOk : State → Bool} {lines : State → List EdgeLine} {s : State}
    (hcfg : configOk s = true) (hcount : 1 ≤ s.count 3 ∧ s.count 3 ≤ 64) (heven : s.u32 0 % 2 = 0)
    (hmem : ∀ e ∈ lines s, ∀ a ∈ e.reads, 0 ≤ a ∧ a + 2 ≤ s.params.memBytes) :
    edgeFault configOk lines s = none := by
  refine firstFault_eq_none.2 ?_
  simp only [List.forall_mem_cons, Bool.and_eq_true, decide_eq_true_eq, allInRange_iff, List.mem_flatMap]
  refine ⟨hcfg, hcount, even_iff.2 heven, ?_, by simp⟩
  rintro a ⟨e, he, ha⟩
  exact hmem e he a ha

/-- Filtering `k + 1` lines is filtering `k` and then the next. -/
theorem filterLines_range_succ (m : Memory) (line : Nat → EdgeLine) (k : Nat) :
    filterLines m ((List.range (k + 1)).map line) = filterLine (filterLines m ((List.range k).map line)) (line k) := by
  rw [List.range_succ, List.map_append, filterLines_append]
  rfl

/-! ## The edge of a CU (R207, R209 to R213) -/

theorem inRange_iff {s : State} {n : Nat} {a : Int} : s.inRange n a = true ↔ 0 ≤ a ∧ a + n ≤ s.params.memBytes := by
  simp [State.inRange]

/-- The checks of DF_CU_HOR and DF_CU_VER (R125, R209). -/
theorem cuFault_eq_none {s : State} {p : Pass} (hcfg : s.cfgDF = true) (hgeo : s.cuGeometry = true)
    (heven : s.cuBasesEven = true)
    (hsegments : s.edgeFiltered p = true → ∀ k < s.segments p,
      (∀ r ∈ [s.recP p k, s.recQ p k], 0 ≤ r ∧ r + 12 ≤ s.params.memBytes) ∧ s.segThr p k ≠ none ∧
        ∀ e ∈ s.segLines p k, ∀ a ∈ e.reads, 0 ≤ a ∧ a + 2 ≤ s.params.memBytes) :
    cuFault p s = none := by
  refine firstFault_eq_none.2 ?_
  simp only [List.forall_mem_cons, Bool.and_eq_true, List.all_eq_true, allInRange_iff, mem_cuRecords]
  refine ⟨hcfg, hgeo, heven, ⟨?_, ?_⟩, ?_, by simp⟩
  · rintro r ⟨hfiltered, k, hk, hr⟩
    obtain ⟨hrecords, -, -⟩ := hsegments hfiltered k hk
    exact inRange_iff.2 (hrecords r (List.mem_pair.2 hr))
  · intro a ha
    obtain ⟨e, he, ha⟩ := List.mem_flatMap.1 ha
    unfold State.cuLines at he
    split at he
    · rename_i hfiltered
      obtain ⟨k, hk, he⟩ := List.mem_flatMap.1 he
      obtain ⟨-, -, hreads⟩ := hsegments hfiltered k (List.mem_range.1 hk)
      exact hreads e he a ha
    · cases he
  · unfold State.cuTablesOk
    cases hfiltered : s.edgeFiltered p
    · rfl
    · simp only [Bool.not_true, Bool.false_or, List.all_eq_true, List.mem_range]
      intro k hk
      obtain ⟨-, hthr, -⟩ := hsegments hfiltered k hk
      exact Option.isSome_iff_ne_none.2 hthr

theorem cuLines_of_filtered {s : State} {p : Pass} (h : s.edgeFiltered p = true) :
    s.cuLines p = (List.range (s.segments p)).flatMap (s.segLines p) := if_pos h

theorem cuLines_of_not_filtered {s : State} {p : Pass} (h : s.edgeFiltered p = false) : s.cuLines p = [] := by
  simp [State.cuLines, h]

/-- The bits a CU leaves set (R210, R213), in luma samples: its own min blocks, and those set before. -/
theorem cuEffect_coded_iff {s : State} (hgeo : s.cuGeometry = true) (p : Pass) {j i : Nat} :
    (cuEffect p s).coded.get j i = true ↔
      s.coded.get j i = true ∨
        (s.s32 5 ≤ 4 * j ∧ (4 * j : Int) < s.s32 5 + s.count 9 ∧
         s.s32 4 ≤ 4 * i ∧ (4 * i : Int) < s.s32 4 + s.count 8) := by
  obtain ⟨hcol, hrow, hcols, hrows⟩ := cuCol_cuRow hgeo
  simp only [State.blockOperands] at hcol hrow hcols hrows
  rw [Coded.get_eq, Coded.get_eq, cuEffect, Coded.mem_mark, or_comm]
  refine or_congr_right ?_
  simp only
  omega

theorem edgeFiltered_hor (s : State) :
    s.edgeFiltered .hor = (decide (0 < s.s32 5) && s.coded.get (s.cuRow - 1) s.cuCol) := rfl

theorem edgeFiltered_ver (s : State) :
    s.edgeFiltered .ver = (decide (0 < s.s32 4) && s.coded.get s.cuRow (s.cuCol - 1)) := rfl

/-- A filtered edge is not one of the picture's own (R207). -/
theorem acrossOf_pos {s : State} {p : Pass} (h : s.edgeFiltered p = true) : 0 < s.acrossOf p := by
  cases p
  · exact of_decide_eq_true (Bool.and_eq_true_iff.1 h).1
  · exact of_decide_eq_true (Bool.and_eq_true_iff.1 h).1

/-- R207: the min blocks across the two edges of a CU, in luma samples. -/
theorem edgeFiltered_hor_iff {s : State} (hgeo : s.cuGeometry = true) :
    s.edgeFiltered .hor = true ↔
      ∃ j i : Nat, (4 * (j + 1) : Int) = s.s32 5 ∧ (4 * i : Int) = s.s32 4 ∧ s.coded.get j i = true := by
  obtain ⟨hcol, hrow, -, -⟩ := cuCol_cuRow hgeo
  simp only [State.blockOperands] at hcol hrow
  rw [edgeFiltered_hor, Bool.and_eq_true, decide_eq_true_iff]
  constructor
  · rintro ⟨hpos, hget⟩
    exact ⟨_, _, by omega, hcol, hget⟩
  · rintro ⟨j, i, hj, hi, hget⟩
    obtain rfl : j = s.cuRow - 1 := by omega
    obtain rfl : i = s.cuCol := by omega
    exact ⟨by omega, hget⟩

theorem edgeFiltered_ver_iff {s : State} (hgeo : s.cuGeometry = true) :
    s.edgeFiltered .ver = true ↔
      ∃ j i : Nat, (4 * j : Int) = s.s32 5 ∧ (4 * (i + 1) : Int) = s.s32 4 ∧ s.coded.get j i = true := by
  obtain ⟨hcol, hrow, -, -⟩ := cuCol_cuRow hgeo
  simp only [State.blockOperands] at hcol hrow
  rw [edgeFiltered_ver, Bool.and_eq_true, decide_eq_true_iff]
  constructor
  · rintro ⟨hpos, hget⟩
    exact ⟨_, _, hrow, by omega, hget⟩
  · rintro ⟨j, i, hj, hi, hget⟩
    obtain rfl : j = s.cuRow := by omega
    obtain rfl : i = s.cuCol - 1 := by omega
    exact ⟨by omega, hget⟩

theorem edgeFiltered_of_coded_nil {s : State} (h : s.coded = []) (p : Pass) : s.edgeFiltered p = false := by
  have hget (j i : Nat) : Coded.get [] j i = false := rfl
  cases p <;> simp [State.edgeFiltered, h, hget]

theorem segLines_eq (s : State) (p : Pass) (k : Nat) :
    s.segLines p k =
      s.lumaLines p k ((s.segThr p k).getD ⟨0, 0, 0⟩).luma ++
        if s.chromaFmt = 0 then []
        else
          s.chromaLines p .cb k ((s.segThr p k).getD ⟨0, 0, 0⟩).cb ++
            s.chromaLines p .cr k ((s.segThr p k).getD ⟨0, 0, 0⟩).cr := by
  by_cases h : s.chromaFmt = 0 <;> simp [State.segLines, State.hasChroma, h]

/-- R206, R209: a segment's thresholds, where every lookup is inside its table. -/
theorem segThr_eq_some_iff {s : State} {p : Pass} {k : Nat} {t : SegThr} :
    s.segThr p k = some t ↔
      ∃ c, s.bs (s.mem.recordAt (s.recP p k)) (s.mem.recordAt (s.recQ p k)) = some c ∧
        s.thr c (s.mem.recordAt (s.recQ p k)).qp s.bitDepthY = some t.luma ∧
        (s.chromaFmt = 0 → t.cb = 0 ∧ t.cr = 0) ∧
        (s.chromaFmt ≠ 0 →
          s.thr c (s.qpc (s.mem.recordAt (s.recQ p k)).qp .cb) s.bitDepthC = some t.cb ∧
          s.thr c (s.qpc (s.mem.recordAt (s.recQ p k)).qp .cr) s.bitDepthC = some t.cr) := by
  obtain ⟨y, cb, cr⟩ := t
  simp only [State.segThr, Option.bind_eq_some_iff]
  refine exists_congr fun c => and_congr_right fun _ => ?_
  by_cases h : s.chromaFmt = 0
  · simp [State.hasChroma, h, eq_comm]
  · simp [State.hasChroma, h, Option.bind_eq_some_iff]

/-! ## A flat picture (R214) -/

/-- The picture's extent along the edges of a pass, in luma samples. -/
def State.picAlong (s : State) : Pass → Nat
  | .hor => s.picW
  | .ver => s.picH

/-- The picture's extent across the edges of a pass. -/
def State.picAcross (s : State) : Pass → Nat
  | .hor => s.picH
  | .ver => s.picW

/-- A plane that holds one value at every place along and across the edges of a pass. -/
def FlatPlane (m : Memory) (p : Pass) (base stride along across v : Int) : Prop :=
  ∀ i j : Int, 0 ≤ i → i < along → 0 ≤ j → j < across → m.read16 (crossAddr p base stride i j) = v

/-- A filtered segment lies in the picture, with 4 samples on each side of its edge: X, Y, W and H are multiples of 4. -/
theorem segment_in_picture {s : State} {p : Pass} (hgeo : s.cuGeometry = true) (hfiltered : s.edgeFiltered p = true)
    {k : Nat} (hk : k < s.segments p) :
    0 ≤ s.alongOf p ∧ s.alongOf p % 4 = 0 ∧ s.alongOf p + 4 * k + 4 ≤ s.picAlong p ∧
      4 ≤ s.acrossOf p ∧ s.acrossOf p + 4 ≤ s.picAcross p := by
  obtain ⟨-, -, hcols, hrows⟩ := cuCol_cuRow hgeo
  obtain ⟨hx, hy, hx4, hy4, -, -, hw, -, hh, -, hright, hbottom⟩ := cuGeometry_iff.1 hgeo
  have hpos := acrossOf_pos hfiltered
  cases p <;>
    simp only [State.segments, State.alongOf, State.acrossOf, State.picAlong, State.picAcross, State.blockOperands] at *
  · omega
  · omega

/-- A line whose four samples lie in a flat plane is flat. -/
theorem crossLine_flat {m : Memory} {p : Pass} {base stride alongLimit acrossLimit v : Int}
    (hplane : FlatPlane m p base stride alongLimit acrossLimit v) {luma : Bool} {along across : Int} {st bd : Nat}
    (hv : 0 ≤ v ∧ v ≤ 2 ^ bd - 1) (halong : 0 ≤ along ∧ along < alongLimit)
    (hacross : 2 ≤ across ∧ across + 1 < acrossLimit) :
    (crossLine p luma base stride along across st bd).Flat m v := by
  refine ⟨hv, fun a ha => ?_⟩
  obtain ⟨t, ht, rfl⟩ := (takesAcross_reads p luma base stride along across a st bd).1 ha
  have htwo : -2 ≤ t ∧ t ≤ 1 := by
    simp only [List.mem_cons, List.not_mem_nil, or_false] at ht
    omega
  exact hplane _ _ halong.1 halong.2 (by omega) (by omega)

/-- The place of a chroma line in its plane, from that of its segment in the picture (R212). -/
theorem chroma_place {shift k l : Nat} (hshift : shift ≤ 1) (hl : l < 4 / 2 ^ shift) {along limit : Int}
    (h0 : 0 ≤ along) (h4 : along % 4 = 0) (hlimit : along + 4 * k + 4 ≤ limit) :
    0 ≤ asr along shift + (4 / 2 ^ shift : Nat) * k + l ∧
      asr along shift + (4 / 2 ^ shift : Nat) * k + l < limit / 2 ^ shift := by
  obtain rfl | rfl := Nat.le_one_iff_eq_zero_or_eq_one.1 hshift <;> norm_num [asr_eq_div] at * <;> omega

theorem chroma_edge {shift : Nat} (hshift : shift ≤ 1) {across limit : Int} (h4 : 4 ≤ across)
    (hlimit : across + 4 ≤ limit) : 2 ≤ asr across shift ∧ asr across shift + 1 < limit / 2 ^ shift := by
  obtain rfl | rfl := Nat.le_one_iff_eq_zero_or_eq_one.1 hshift <;> norm_num [asr_eq_div] at * <;> omega

theorem alongShift_le_one (s : State) (p : Pass) : s.alongShift p ≤ 1 := by
  cases p
  · exact ws_le_one s
  · exact hs_le_one s

theorem acrossShift_le_one (s : State) (p : Pass) : s.acrossShift p ≤ 1 := by
  cases p
  · exact hs_le_one s
  · exact ws_le_one s

section
variable {s : State} {p : Pass} (hgeo : s.cuGeometry = true) (hfiltered : s.edgeFiltered p = true) {k : Nat}
  (hk : k < s.segments p) {v : Int}
include hgeo hfiltered hk

theorem lumaLines_flat (hv : 0 ≤ v ∧ v ≤ 2 ^ s.bitDepthY - 1)
    (hplane : FlatPlane s.mem p s.picYBase.toNat s.picYStride.toNat (s.picAlong p) (s.picAcross p) v) {st : Nat}
    {e : EdgeLine} (he : e ∈ s.lumaLines p k st) : e.Flat s.mem v := by
  obtain ⟨hx, -, hright, hy, hbottom⟩ := segment_in_picture hgeo hfiltered hk
  obtain ⟨l, hl, rfl⟩ := List.mem_map.1 he
  have hl := List.mem_range.1 hl
  exact crossLine_flat hplane hv (by omega) (by omega)

theorem chromaLines_flat {pl : ChromaPlane} (hv : 0 ≤ v ∧ v ≤ 2 ^ s.bitDepthC - 1)
    (hplane : FlatPlane s.mem p (s.picChromaBase pl) s.picCStride.toNat (s.picAlong p / 2 ^ s.alongShift p)
      (s.picAcross p / 2 ^ s.acrossShift p) v) {st : Nat}
    {e : EdgeLine} (he : e ∈ s.chromaLines p pl k st) : e.Flat s.mem v := by
  obtain ⟨hx, hx4, hright, hy, hbottom⟩ := segment_in_picture hgeo hfiltered hk
  obtain ⟨l, hl, rfl⟩ := List.mem_map.1 he
  exact crossLine_flat hplane hv (chroma_place (alongShift_le_one s p) (List.mem_range.1 hl) hx hx4 hright)
    (chroma_edge (acrossShift_le_one s p) hy hbottom)

end

/-- R214: the edge of a CU in a flat picture has flat lines only. -/
theorem cuLines_flat {s : State} {p : Pass} (hgeo : s.cuGeometry = true) {v : Int}
    (hv : 0 ≤ v ∧ v ≤ 2 ^ s.bitDepthY - 1)
    (hplane : FlatPlane s.mem p s.picYBase.toNat s.picYStride.toNat (s.picAlong p) (s.picAcross p) v)
    (hvC : s.chromaFmt ≠ 0 → 0 ≤ v ∧ v ≤ 2 ^ s.bitDepthC - 1)
    (hplaneC : s.chromaFmt ≠ 0 → ∀ pl : ChromaPlane, FlatPlane s.mem p (s.picChromaBase pl) s.picCStride.toNat
      (s.picAlong p / 2 ^ s.alongShift p) (s.picAcross p / 2 ^ s.acrossShift p) v) :
    ∀ e ∈ s.cuLines p, e.Flat s.mem v := by
  intro e he
  cases hfiltered : s.edgeFiltered p
  · rw [cuLines_of_not_filtered hfiltered] at he
    cases he
  rw [cuLines_of_filtered hfiltered] at he
  obtain ⟨k, hk, he⟩ := List.mem_flatMap.1 he
  have hk := List.mem_range.1 hk
  rw [segLines_eq] at he
  rcases List.mem_append.1 he with he | he
  · exact lumaLines_flat hgeo hfiltered hk hv hplane he
  · split at he
    · cases he
    · rename_i hfmt
      rcases List.mem_append.1 he with he | he
      · exact chromaLines_flat hgeo hfiltered hk (hvC hfmt) (hplaneC hfmt .cb) he
      · exact chromaLines_flat hgeo hfiltered hk (hvC hfmt) (hplaneC hfmt .cr) he

/-! ## The statements: tier 2 -/

/-- Settles O43: each way of R192 by its lemma, and the symmetry by `bs_comm`. -/
theorem boundaryStrengthClasses : Obligations.BoundaryStrengthClasses := by
  unfold Obligations.BoundaryStrengthClasses
  refine fun s p q => ⟨fun h => bs_of_intra h s, fun hp hq h => bs_of_residual hp hq h s, fun hp hq hpc hqc => ?_,
    bs_comm s p q⟩
  have hm : ByMotion p q := ⟨hp, hq, hpc, hqc⟩
  refine ⟨bs_eq_none_iff hm, fun p0 p1 q0 q1 hp0 hp1 hq0 hq1 => ?_⟩
  rw [bs_of_pictures hm hp0 hp1 hq0 hq1]
  simp only [Option.some.injEq, ← near_iff]
  exact ⟨motionClass_eq_three_iff, motionClass_cases p0 p1 q0 q1 p q⟩

/-- Settles O46: the clipped QP is in the domain of the map, so its place there is an index. -/
theorem qpcStoresClippedAndRemapped : Obligations.QpcStoresClippedAndRemapped := by
  unfold Obligations.QpcStoresClippedAndRemapped
  intro s hbd pl off map i q
  have hq : q = s.qpcClip (s.s32 0) pl := by cases pl <;> rfl
  obtain ⟨hlo, hhi⟩ := qpcClip_mem hbd (s.s32 0) pl
  obtain ⟨k, hk⟩ : ∃ k : Fin 94, (k.val : Int) = q + 36 := ⟨⟨(q + 36).toNat, by omega⟩, by simp only; omega⟩
  have hmap : map[k] = s.qpc (s.s32 0) pl := by
    rw [qpc_eq_getElem (hk.trans (congrArg (· + 36) hq))]
    cases pl <;> rfl
  have hruns : commandFault i s = none := by
    have hfault : faultDfQpc s = none := by simp [faultDfQpc, hbd]
    cases pl <;> exact hfault
  refine ⟨k, hk, ?_⟩
  rw [exec_of_runs hruns, hmap, hq]
  cases pl <;> rfl

/-- Settles O49: the chroma filter is the middle of the luma filter. -/
theorem filtersMirror : Obligations.FiltersMirror := by
  unfold Obligations.FiltersMirror
  intro l st bd m f
  have hluma : filterLuma m st bd = f.mirror := filterLuma_mirror l st bd
  refine ⟨hluma, ?_⟩
  rw [filterChroma_eq, hluma]
  rfl

/-- Settles O50: either hypothesis makes the clamp 0, and the samples pass their clip. -/
theorem zeroThresholdAndFlatLinesAreUnchanged : Obligations.ZeroThresholdAndFlatLinesAreUnchanged := by
  unfold Obligations.ZeroThresholdAndFlatLinesAreUnchanged
  intro l st bd hrange h
  have hluma := filterLuma_eq_self hrange h
  refine ⟨hluma, ?_⟩
  rw [filterChroma_eq, hluma]

/-- Settles O51: the stores of each kind of line, of which the last to a unit stays. -/
theorem lineFilteredInMemory : Obligations.LineFilteredInMemory := by
  unfold Obligations.LineFilteredInMemory
  intro m e hm hbd hunits
  refine ⟨read16_filterLine_luma hm hbd hunits, read16_filterLine_chroma hm hbd hunits,
    read16_filterLine_of_one hm hbd hunits, fun a ha => ?_⟩
  refine Memory.read_writeAll_ne fun w hw => ?_
  have hwrites := EdgeLine.fst_mem_writes hw
  have hunit := hunits _ (EdgeLine.writes_sub_reads hwrites)
  have hout := ha _ hwrites
  omega

/-- Settles O52: the memory after `k` lines is that of the first `k` lines filtered. -/
theorem edgeCommandsFilterTheirLinesInOrder : Obligations.EdgeCommandsFilterTheirLinesInOrder := by
  unfold Obligations.EdgeCommandsFilterTheirLinesInOrder
  intro s luma bd addr xstep lstep lines st line hdepth hcount heven hmem
  refine ⟨_, fun k => filterLines s.mem ((List.range k).map line), ?_, rfl, rfl,
    fun k _ => filterLines_range_succ s.mem line k⟩
  have hreads : ∀ e ∈ (List.range lines).map line, ∀ a ∈ e.reads, 0 ≤ a ∧ a + 2 ≤ s.params.memBytes := by
    rw [List.forall_mem_map]
    exact fun k hk => hmem k (List.mem_range.1 hk)
  cases luma
  · have hruns : faultDfEdgeChroma s = none := edgeFault_eq_none (okBD_of_depth hdepth) hcount heven hreads
    exact exec_of_runs (i := .dfEdgeChroma) hruns
  · have hruns : faultDfEdgeLuma s = none := edgeFault_eq_none (okBD_of_depth hdepth) hcount heven hreads
    exact exec_of_runs (i := .dfEdgeLuma) hruns

/-- Settles O53: the checks hold, and the effect is the lines of the edge and the mark of the CU. -/
theorem cuFiltersItsEdgeAndMarks : Obligations.CuFiltersItsEdgeAndMarks := by
  unfold Obligations.CuFiltersItsEdgeAndMarks
  intro s p hcfg hgeo heven hsegments
  have hruns := cuFault_eq_none hcfg hgeo heven hsegments
  refine ⟨(cuEffect p s).complete, ?_, rfl, fun h => ?_, fun h => ?_, fun j i => cuEffect_coded_iff hgeo p⟩
  · cases p
    · exact exec_of_runs (i := .dfCuHor) hruns
    · exact exec_of_runs (i := .dfCuVer) hruns
  · exact congrArg (filterLines s.mem) (cuLines_of_filtered h)
  · exact congrArg (filterLines s.mem) (cuLines_of_not_filtered h)

/-- Settles O54: the min blocks across the two edges. -/
theorem neighbourTest : Obligations.NeighbourTest := by
  unfold Obligations.NeighbourTest
  exact fun s hgeo => ⟨edgeFiltered_hor_iff hgeo, edgeFiltered_ver_iff hgeo⟩

/-- Settles O55: the records by the CU's place in min blocks, the thresholds by `segThr_eq_some_iff`. -/
theorem segmentRecordsAndThresholds : Obligations.SegmentRecordsAndThresholds := by
  unfold Obligations.SegmentRecordsAndThresholds
  intro s k hgeo x y rec'
  obtain ⟨hcol, hrow⟩ := cuCol_cuRow_eq_div hgeo
  have hx : x / 4 = s.cuCol := hcol.symm
  have hy : y / 4 = s.cuRow := hrow.symm
  rw [hx, hy]
  exact ⟨⟨rfl, rfl⟩, ⟨rfl, rfl⟩, fun p t => segThr_eq_some_iff⟩

/-- Settles O58: a fault writes no memory, and where the command runs every line of its edge is flat. -/
theorem flatPictureIsUnchanged : Obligations.FlatPictureIsUnchanged := by
  unfold Obligations.FlatPictureIsUnchanged
  intro s t i v hi hwf hv hvY hvC hplaneY hplaneC hexec
  rcases exec_cases hexec with ⟨e, -, rfl⟩ | ⟨hruns, rfl⟩
  · rfl
  have hvC' (h : s.chromaFmt ≠ 0) : 0 ≤ v ∧ v ≤ 2 ^ s.bitDepthC - 1 := ⟨hv, hvC h⟩
  rcases hi with rfl | rfl
  · obtain ⟨-, hgeo, -⟩ := checks_of_cuFault (p := .hor) (.inl hruns)
    exact filterLines_of_flat hwf (cuLines_flat (p := .hor) hgeo ⟨hv, hvY⟩
      (fun x y hx hx' hy hy' => hplaneY x y hx hx' hy hy') hvC'
      fun hfmt pl x y hx hx' hy hy' => hplaneC hfmt pl x y hx hx' hy hy')
  · obtain ⟨-, hgeo, -⟩ := checks_of_cuFault (p := .ver) (.inl hruns)
    exact filterLines_of_flat hwf (cuLines_flat (p := .ver) hgeo ⟨hv, hvY⟩
      (fun y x hy hy' hx hx' => hplaneY x y hx hx' hy hy') hvC'
      fun hfmt pl y x hy hy' hx hx' => hplaneC hfmt pl x y hx hx' hy hy')

/-! ## The statements: tier 1 -/

/-- Settles O27: CODED is empty after it, under any ARGs. -/
theorem passBeginClearsEveryCodedBit : Obligations.PassBeginClearsEveryCodedBit := by
  unfold Obligations.PassBeginClearsEveryCodedBit
  exact ⟨rfl, fun s => ⟨_, exec_of_runs rfl, fun j i => rfl, rfl, fun as p => edgeFiltered_of_coded_nil rfl p⟩⟩

/-- Settles O42: the three ranges of an index. -/
theorem referencePictureOfAnIndex : Obligations.ReferencePictureOfAnIndex := by
  unfold Obligations.ReferencePictureOfAnIndex
  refine fun poc i => ⟨fun h => picOf_of_neg h poc, ?_, fun h => picOf_of_ge h poc⟩
  rintro k rfl
  exact picOf_of_index poc k

/-- Settles O44: the checks hold, an ARG read as `u32` being no negative address. -/
theorem bsStoresTheClass : Obligations.BsStoresTheClass := by
  unfold Obligations.BsStoresTheClass
  rintro s c ⟨heven0, heven1⟩ ⟨hrange0, hrange1⟩ hclass
  have hcommand : s.bsCommand = some c := hclass
  have hruns : commandFault .dfBs s = none := by
    refine firstFault_eq_none.2 ?_
    simp only [List.forall_mem_cons, Bool.and_eq_true, hcommand]
    exact ⟨⟨even_iff.2 heven0, even_iff.2 heven1⟩,
      ⟨inRange_iff.2 ⟨u32_nonneg s 0, hrange0⟩, inRange_iff.2 ⟨u32_nonneg s 1, hrange1⟩⟩, rfl, by simp⟩
  rw [exec_of_runs hruns, commandEffect, effectDfBs, hcommand]
  rfl

/-- Settles O45: each field by the bytes it is read from. -/
theorem recordFields : Obligations.RecordFields := by
  unfold Obligations.RecordFields
  intro m r b
  simp only [Memory.recordAt, Meta.mk.injEq, Mv.mk.injEq]
  exact ⟨rfl, rfl, sext8_read8 m r 1, sext8_read8 m r 2, sext8_read8 m r 3,
    ⟨sext16_read16 m r 4, sext16_read16 m r 6⟩, sext16_read16 m r 8, sext16_read16 m r 10⟩

/-- Settles O47: the clamp is not negative, so the order of the two bounds of d2 does not matter. -/
theorem lineFilterArithmetic : Obligations.LineFilterArithmetic := by
  unfold Obligations.LineFilterArithmetic
  intro l st bd d cl d1 d2
  have hd1 : edgeD1 d st = d1 := congrArg (· * cl) (sgn_eq_sign d)
  have hd2 : edgeD2 (edgeClamp d st) l.a l.d = d2 := edgeD2_eq (edgeClamp_nonneg d st) l.a l.d
  refine ⟨?_, rfl⟩
  rw [← hd1, ← hd2]
  rfl

/-- Settles O48: the three ranges of |d|, and the clip that every filtered sample passes. -/
theorem clampIsATentAndFiltersWriteInRange : Obligations.ClampIsATentAndFiltersWriteInRange := by
  unfold Obligations.ClampIsATentAndFiltersWriteInRange
  refine ⟨fun d st _ => ⟨edgeClamp_of_le, edgeClamp_of_between, edgeClamp_of_ge⟩, ?_⟩
  intro l st bd f
  have hmem := filterLuma_mem l st bd
  obtain ⟨hb0, hb⟩ := hmem f.b (by simp [f])
  obtain ⟨hc0, hc⟩ := hmem f.c (by simp [f])
  exact ⟨hmem, hb0, hb, hc0, hc⟩

/-- Settles O56: in the domain the table of a class has an entry, for its length is that of the domain. -/
theorem thresholdLookup : Obligations.ThresholdLookup := by
  unfold Obligations.ThresholdLookup
  refine fun s c q bd hwf => ⟨fun h => thr_of_outside h c bd, fun hmin hmax hbd => ?_⟩
  obtain ⟨k, hk⟩ : ∃ k : Nat, q = s.params.dfQpMin + k := ⟨(q - s.params.dfQpMin).toNat, by omega⟩
  have hlength := dfSt_length_of_wf hwf c
  have hentry : (s.params.dfSt[c])[k]? = some (s.params.dfSt[c])[k] := List.getElem?_eq_getElem (by omega)
  exact ⟨k, _, _, hk, hentry, dfShift_of_okBD hbd s.params, thr_of_inside hk hmax hentry bd⟩

/-- Settles O57: the lines of a segment with their addresses written out, and the thresholds where the segment has them. -/
theorem cuLinesOfAnEdge : Obligations.CuLinesOfAnEdge := by
  unfold Obligations.CuLinesOfAnEdge
  refine fun s k => ⟨⟨rfl, rfl, fun p => cuLines_of_filtered⟩, ?_, ?_⟩
  · refine ⟨(s.segThr .hor k).getD ⟨0, 0, 0⟩, fun u h => by rw [h]; rfl, ?_⟩
    rw [segLines_eq]
    simp only [State.chromaLines, asr_eq_div]
    rfl
  · refine ⟨(s.segThr .ver k).getD ⟨0, 0, 0⟩, fun u h => by rw [h]; rfl, ?_⟩
    rw [segLines_eq]
    simp only [State.chromaLines, asr_eq_div]
    rfl

end Sys2Proof.Machine

/-! # Control commands (42_control.md): NOP -/

namespace Sys2Proof.Machine

/-- Settles O26: NOP has no check and its effect is the identity, so only the completion is left. -/
theorem nopOnlyCompletes : Obligations.NopOnlyCompletes := by
  unfold Obligations.NopOnlyCompletes
  intro s
  have hruns : commandFault .nop s = none := rfl
  have heffect : commandEffect .nop s = s := rfl
  rw [exec_of_runs hruns, heffect]
  rfl

end Sys2Proof.Machine

/-! # Exceptions (60_exceptions.md): the fixed order of the checks, the fault they decide, and the halt it leaves -/

namespace Sys2Proof.Machine

/-! ## Taking a fault (R250, R252) -/

theorem takeFault_eq (s : State) (e : ErrCode) :
    s.takeFault e = { s with status :=
      { busy := false, done := true, err := true, wign := s.status.wign, errCode := e.code,
        errOp := s.pending.extractLsb' 0 8 } } := rfl

/-! ## A fixed order of checks (R253) -/

theorem Decides.nil : Decides [] (firstFault []) := rfl

/-- The first check of an order, which says what its proposition says; the later ones are reached where it holds. -/
theorem Decides.cons {p : Prop} {ok : Bool} {e : ErrCode} {checks : List (Prop × ErrCode)} {l : List (Bool × ErrCode)}
    (hok : ok = true ↔ p) (hrest : p → Decides checks (firstFault l)) :
    Decides ((p, e) :: checks) (firstFault ((ok, e) :: l)) := by
  refine ⟨fun hp => ?_, fun hp => ?_⟩
  · rw [hok.2 hp]
    exact hrest hp
  · rw [Bool.eq_false_iff.2 (mt hok.1 hp)]
    rfl

theorem and_eq_true_iff_and {a b : Bool} {p q : Prop} (ha : a = true ↔ p) (hb : b = true ↔ q) :
    (a && b) = true ↔ p ∧ q := Bool.and_eq_true_iff.trans (and_congr ha hb)

/-! ## The checks of the rules are those of the model: configuration and geometry (R55, R125) -/

theorem okBD_iff_depth {b : Nat} : okBD b = true ↔ Spec.Depth b := by
  rw [okBD_iff, Spec.Depth]
  omega

theorem cfgBlk_iff_spec {s : State} :
    s.cfgBlk = true ↔ Spec.Pic s ∧ Spec.Depth s.bitDepthY ∧ (s.chromaFmt ≠ 0 → Spec.Depth s.bitDepthC) := by
  rw [cfgBlk_iff, cfgPic_iff, okBD_iff_depth, okBD_iff_depth]
  rfl

theorem cfgDF_iff_spec {s : State} :
    s.cfgDF = true ↔ Spec.Pic s ∧ Spec.Depth s.bitDepthY ∧ (s.chromaFmt ≠ 0 → Spec.Depth s.bitDepthC) ∧
      s.picW ≤ s.params.maxPicW ∧ s.picH ≤ s.params.maxPicH := by
  simp only [cfgDF_iff, cfgBlk_iff_spec, and_assoc]

theorem chromaAligned_iff_spec {s : State} : s.chromaAligned = true ↔ Spec.ChromaAligned s := by
  refine ⟨fun h hfmt => ?_, chromaAligned_of_spec⟩
  rw [shiftX_eq_ws, shiftY_eq_hs]
  simpa [State.chromaAligned, State.blockOperands, lowBits, State.hasChroma, hfmt, and_assoc] using h

theorem countOk_iff {n : Nat} : (decide (1 ≤ n) && decide (n ≤ Config.maxLines)) = true ↔ 1 ≤ n ∧ n ≤ 64 :=
  and_eq_true_iff_and decide_eq_true_iff decide_eq_true_iff

/-! ## Bases (R74, R125, R170) -/

theorem blockBasesEven_iff_spec {s : State} : s.blockBasesEven = true ↔ Spec.BlockBasesEven s := by
  refine ⟨fun h => ?_, blockBasesEven_of_spec⟩
  simp only [State.blockBasesEven, List.all_eq_true, Bool.and_eq_true, even_iff] at h
  rw [Spec.BlockBasesEven, planes_eq, List.forall_mem_map]
  intro p hp
  obtain ⟨hdst, hlists⟩ := h p hp
  refine ⟨hdst, fun hmode => ?_, fun hmode => ?_⟩
  · have := hlists false (false_mem_lists_iff.2 hmode)
    cases p <;> exact this
  · have := hlists true (true_mem_lists_iff.2 hmode)
    cases p <;> exact this

theorem zext32_even_iff {w : Word} : zext32 w % 2 = 0 ↔ w.toNat % 2 = 0 := by
  rw [zext32]
  omega

theorem cuBasesEven_iff_toNat {s : State} :
    s.cuBasesEven = true ↔ s.mapBase.toNat % 2 = 0 ∧ s.picYBase.toNat % 2 = 0 ∧
      (s.chromaFmt ≠ 0 → s.picCbBase.toNat % 2 = 0 ∧ s.picCrBase.toNat % 2 = 0) := by
  simp only [cuBasesEven_iff, zext32_even_iff]

/-! ## Ranges (R75) -/

/-- The range check over a command's reads and writes. -/
theorem allInRange_iff_allInMemory {i : Instr} {s : State} :
    (s.allInRange (commandReads i s) && s.allInRange (commandWrites i s)) = true ↔ Spec.AllInMemory i s := by
  refine ⟨fun h => ?_, fun h => Bool.and_eq_true_iff.2 (allInRange_of_allInMemory h)⟩
  obtain ⟨hreads, hwrites⟩ := Bool.and_eq_true_iff.1 h
  rintro a (ha | ha)
  · exact allInRange_iff.1 hreads a (mem_commandReads_iff.2 ha)
  · exact allInRange_iff.1 hwrites a (mem_commandWrites_iff.2 ha)

/-- The range check of the deblocking commands goes over the reads alone, which the writes are among (R200, R202). -/
theorem allInRange_reads_iff_allInMemory {i : Instr} {s : State} (h : ∀ a ∈ commandWrites i s, a ∈ commandReads i s) :
    s.allInRange (commandReads i s) = true ↔ Spec.AllInMemory i s := by
  rw [← allInRange_iff_allInMemory, Bool.and_eq_true, iff_self_and, allInRange_iff, allInRange_iff]
  exact fun hreads a ha => hreads a (h a ha)

/-! ## DF_CU_HOR and DF_CU_VER (R209 to R211) -/

/-- The command of a pass. -/
def Pass.command : Pass → Instr
  | .hor => .dfCuHor
  | .ver => .dfCuVer

theorem commandFault_command (p : Pass) (s : State) : commandFault p.command s = cuFault p s := by cases p <;> rfl

theorem allInRange_cuLines_iff {p : Pass} {s : State} :
    s.allInRange ((s.cuLines p).flatMap EdgeLine.reads) = true ↔ Spec.AllInMemory p.command s := by
  cases p
  · exact allInRange_reads_iff_allInMemory (i := .dfCuHor) fun _ => lineWrites_sub_lineReads
  · exact allInRange_reads_iff_allInMemory (i := .dfCuVer) fun _ => lineWrites_sub_lineReads

/-- In a legal geometry the records of the model are those of the rules. -/
theorem mem_cuRecords_iff_records {p : Pass} {s : State} (hgeo : s.cuGeometry = true) {r : Int} :
    r ∈ s.cuRecords p ↔ Spec.Records p.command s r := by
  obtain ⟨hcol, hrow⟩ := cuCol_cuRow_eq_div hgeo
  rw [mem_cuRecords]
  cases p <;> simp only [Pass.command, Spec.Records, specMapRec_eq, ← hcol, ← hrow] <;> rfl

theorem cuRecords_inRange_iff {p : Pass} {s : State} (hgeo : s.cuGeometry = true) :
    (s.cuRecords p).all (s.inRange recordBytes) = true ↔ ∀ r, Spec.Records p.command s r → Spec.InMemory s 12 r := by
  simp only [List.all_eq_true, mem_cuRecords_iff_records hgeo, inRange_iff]
  rfl

theorem cuTablesOk_iff {p : Pass} {s : State} :
    s.cuTablesOk p = true ↔ (s.edgeFiltered p = true → ∀ k < s.segments p, s.segThr p k ≠ none) := by
  unfold State.cuTablesOk
  cases s.edgeFiltered p <;> simp [Option.isSome_iff_ne_none]

/-! ## The halt after a fault (R256) -/

theorem engineTurn_of_idle {s : State} (h : s.status.busy = false) : s.engineTurn = .next s := by
  simp [State.engineTurn, h]

namespace State.Halted

/-- A halted block takes register writes, but for CMD, and only a STATUS write with bit 2 set ends the halt. -/
theorem writeReg {s : State} (h : s.Halted) {r : Reg} {v : Word} (hclear : r = .status → v.getLsbD 2 = false) :
    (s.writeReg r v).Halted := by
  obtain ⟨herr, hidle⟩ := h
  rw [writeReg_of_idle hidle]
  cases r
  case cmd => rw [storeReg_cmd_of_err herr]; exact ⟨herr, hidle⟩
  case status => exact ⟨by simpa [State.storeReg, herr] using hclear rfl, hidle⟩
  all_goals exact ⟨herr, hidle⟩

/-- What a move makes of a halted block: every other move than RESET and the clearing STATUS write leaves it halted. -/
theorem make {s t : State} {mv : Move} (h : s.Halted) (hmake : s.make mv = .next t) :
    t.Halted ∨ mv = .reset ∨ ∃ width off v, mv = .regWrite width off v ∧ regAt off = .status ∧ v.getLsbD 2 = true := by
  cases mv with
  | regWrite width off v =>
    by_cases hclear : regAt off = .status ∧ v.getLsbD 2 = true
    · exact .inr (.inr ⟨width, off, v, rfl, hclear⟩)
    · simp only [State.make, State.hostRegWrite] at hmake
      split at hmake <;> cases hmake
      exact .inl (h.writeReg fun hstatus => Bool.eq_false_iff.2 fun hv => hclear ⟨hstatus, hv⟩)
  | regRead width off =>
    simp only [State.make, State.hostRegRead] at hmake
    split at hmake <;> cases hmake
    exact .inl h
  | memWrite a v | memWrite16 a v | memRead a =>
    obtain ⟨rfl, -, -⟩ := hostMemory_cases hmake
    exact .inl h
  | reset => exact .inr (.inl rfl)
  | engine =>
    cases (engineTurn_of_idle h.2).symm.trans hmake
    exact .inl h

/-- The only two ways out of the halt (R256). -/
theorem step {s t : State} (h : s.Halted) (hstep : step s = .next t) :
    t.Halted ∨ (∃ rest, s.agenda = .reset :: rest) ∨
      ∃ width off v rest, s.agenda = .regWrite width off v :: rest ∧ regAt off = .status ∧ v.getLsbD 2 = true := by
  cases hagenda : s.agenda with
  | nil =>
    rw [step_of_agenda_nil hagenda, engineTurn_of_idle h.2] at hstep
    cases hstep
    exact .inl h
  | cons mv rest =>
    rw [step_of_agenda_cons hagenda] at hstep
    have hrest : { s with agenda := rest }.Halted := h
    rcases hrest.make hstep with ht | rfl | ⟨width, off, v, rfl, hclear⟩
    · exact .inl ht
    · exact .inr (.inl ⟨rest, rfl⟩)
    · exact .inr (.inr ⟨width, off, v, rest, rfl, hclear⟩)

end State.Halted

/-- R257: what the STATUS write that clears ERR leaves. -/
theorem clearStatus_of_bit2 {v : Word} (h : v.getLsbD 2 = true) (s : State) :
    s.clearStatus v =
      { s with status := { s.status with err := false, errCode := 0, errOp := 0,
                                         done := s.status.done && !v.getLsbD 1,
                                         wign := s.status.wign && !v.getLsbD 3 } } := by
  simp [State.clearStatus, Status.writeOneToClear, h]

/-- A CMD write finding ERR = 1 is ignored, whether the block is busy (R34) or halted (R256). -/
theorem writeReg_cmd_of_err {s : State} (h : s.status.err = true) (w : Word) : s.writeReg .cmd w = s.ignoreWrite := by
  cases hbusy : s.status.busy
  · rw [writeReg_of_idle hbusy, storeReg_cmd_of_err h]
  · exact writeReg_of_busy hbusy rfl w

theorem writeReg_cmd_of_ready {s : State} (hidle : s.status.busy = false) (herr : s.status.err = false) (w : Word) :
    s.writeReg .cmd w = s.acceptCommand w := by rw [writeReg_of_idle hidle, storeReg_cmd_of_noErr herr]

/-! ## The statements: tier 2 -/

/-- Settles O12: a failing check and an illegal word both end in `takeFault`, which writes STATUS alone. -/
theorem faultWritesOnlyStatus : Obligations.FaultWritesOnlyStatus := by
  unfold Obligations.FaultWritesOnlyStatus
  refine ⟨fun i s e hfault => ?_, fun s hillegal => ?_⟩
  · rw [exec_of_fault hfault, takeFault_eq]
    cases e <;> rfl
  · rw [engineStep_of_illegal hillegal, takeFault_eq]
    rfl

/-- Settles O13: each check of a command, in its place in the order, says what the rule's proposition says. -/
theorem mcChecksDecideTheFault : Obligations.McChecksDecideTheFault := by
  unfold Obligations.McChecksDecideTheFault
  intro s chroma
  refine ⟨?predLuma, ?predChroma, ?biAvg, ?mvClip, ?block⟩
  case predLuma =>
    exact .cons okBD_iff_depth fun _ => .cons sizeOk_iff fun _ =>
      .cons (and_eq_true_iff_and even_iff even_iff) fun _ =>
      .cons (allInRange_iff_allInMemory (i := .mcPredLuma)) fun _ => .nil
  case predChroma =>
    exact .cons (and_eq_true_iff_and okBD_iff_depth hasChroma_iff) fun _ => .cons sizeOk_iff fun _ =>
      .cons (and_eq_true_iff_and even_iff even_iff) fun _ =>
      .cons (allInRange_iff_allInMemory (i := .mcPredChroma)) fun _ => .nil
  case biAvg =>
    have heven : (even (s.u32 0) && even (s.u32 15) && even (s.u32 2)) = true ↔
        s.u32 0 % 2 = 0 ∧ s.u32 15 % 2 = 0 ∧ s.u32 2 % 2 = 0 := by
      simp only [Bool.and_eq_true, even_iff, and_assoc]
    exact .cons sizeOk_iff fun _ => .cons heven fun _ =>
      .cons (allInRange_iff_allInMemory (i := .mcBiAvg)) fun _ => .nil
  case mvClip => exact .cons cfgPic_iff fun _ => .cons blockInPicture_iff fun _ => .nil
  case block =>
    have hgeometry : (s.blockInPicture && s.chromaAligned) = true ↔
        Spec.Size s ∧ Spec.Inside s ∧ Spec.ChromaAligned s :=
      (and_eq_true_iff_and blockInPicture_iff chromaAligned_iff_spec).trans and_assoc
    exact .cons cfgBlk_iff_spec fun _ => .cons hgeometry fun _ => .cons Bool.or_eq_true_iff fun _ =>
      .cons blockBasesEven_iff_spec fun _ => .cons (allInRange_iff_allInMemory (i := .mcBlock)) fun _ => .nil

/-- Settles O14: as for the motion-compensation commands; the records of a CU are those of the rules because the geometry was
checked before them. -/
theorem dfChecksDecideTheFault : Obligations.DfChecksDecideTheFault := by
  unfold Obligations.DfChecksDecideTheFault
  intro s chroma x y w h recordsInMemory
  refine ⟨?bs, ?edgeLuma, ?edgeChroma, .cons okBD_iff_depth fun _ => .nil, .cons okBD_iff_depth fun _ => .nil,
    ?cu, rfl, rfl⟩
  case bs =>
    have hrecords : (s.inRange recordBytes (s.u32 0) && s.inRange recordBytes (s.u32 1)) = true ↔
        recordsInMemory .dfBs := by
      simp only [recordsInMemory, Spec.Records, forall_eq_or_imp, forall_eq]
      exact and_eq_true_iff_and inRange_iff inRange_iff
    exact .cons (and_eq_true_iff_and even_iff even_iff) fun _ => .cons hrecords fun _ =>
      .cons Option.isSome_iff_ne_none fun _ => .nil
  case edgeLuma =>
    exact .cons okBD_iff_depth fun _ => .cons countOk_iff fun _ => .cons even_iff fun _ =>
      .cons (allInRange_reads_iff_allInMemory (i := .dfEdgeLuma) fun _ => lineWrites_sub_lineReads) fun _ => .nil
  case edgeChroma =>
    exact .cons okBD_iff_depth fun _ => .cons countOk_iff fun _ => .cons even_iff fun _ =>
      .cons (allInRange_reads_iff_allInMemory (i := .dfEdgeChroma) fun _ => lineWrites_sub_lineReads) fun _ => .nil
  case cu =>
    intro i p hi
    obtain rfl : i = p.command := by rcases hi with ⟨rfl, rfl⟩ | ⟨rfl, rfl⟩ <;> rfl
    rw [commandFault_command]
    exact .cons cfgDF_iff_spec fun _ => .cons cuGeometry_iff fun hgeo => .cons cuBasesEven_iff_toNat fun _ =>
      .cons (and_eq_true_iff_and (cuRecords_inRange_iff (cuGeometry_iff.2 hgeo)) allInRange_cuLines_iff) fun _ =>
      .cons cuTablesOk_iff fun _ => .nil

/-- Settles O15: a step of a halted block is a move that leaves ERR set, unless it is one of the two exits; after the clear the
block is idle with ERR = 0. -/
theorem faultHaltsUntilItIsCleared : Obligations.FaultHaltsUntilItIsCleared := by
  unfold Obligations.FaultHaltsUntilItIsCleared
  refine ⟨fun s w herr => writeReg_cmd_of_err herr w, fun s h => ⟨fun t hstep => h.step hstep, fun v w hv => ?_⟩⟩
  intro t
  have ht : t = _ := (writeReg_status s v).trans (clearStatus_of_bit2 hv s)
  have hidle : t.status.busy = false := by
    rw [ht]
    exact h.2
  have herr : t.status.err = false := by rw [ht]
  exact ⟨ht, writeReg_cmd_of_ready hidle herr w⟩

end Sys2Proof.Machine

/-! # Moves, commands and reset (70_reset_and_hazards.md): the moves of the agenda besides commands and data memory, what every
command leaves, the independence of motion compensation from CODED, RESET, and the statements these settle -/

namespace Sys2Proof.Machine

/-! ## The host's register accesses (R32, I9) -/

theorem accessOk_iff {width : Nat} {off : BitVec 12} : accessOk width off = true ↔ width = 4 ∧ off.toNat % 4 = 0 := by
  simp [accessOk]

theorem accessOk_eq_false {width : Nat} {off : BitVec 12} (h : width ≠ 4 ∨ off.toNat % 4 ≠ 0) :
    accessOk width off = false := by
  rw [Bool.eq_false_iff, ne_eq, accessOk_iff]
  omega

theorem hostRegWrite_of_aligned {off : BitVec 12} (h : off.toNat % 4 = 0) (s : State) (v : Word) :
    s.hostRegWrite 4 off v = .next (s.writeReg (regAt off) v) := if_pos (accessOk_iff.2 ⟨rfl, h⟩)

theorem hostRegRead_of_aligned {off : BitVec 12} (h : off.toNat % 4 = 0) (s : State) :
    s.hostRegRead 4 off = .next { s with hostReads := .reg off (s.readReg (regAt off)) :: s.hostReads } :=
  if_pos (accessOk_iff.2 ⟨rfl, h⟩)

theorem hostRegWrite_of_badShape {width : Nat} {off : BitVec 12} (h : width ≠ 4 ∨ off.toNat % 4 ≠ 0) (s : State) (v : Word) :
    s.hostRegWrite width off v = .refused .hostAccessShape := by simp [State.hostRegWrite, accessOk_eq_false h]

theorem hostRegRead_of_badShape {width : Nat} {off : BitVec 12} (h : width ≠ 4 ∨ off.toNat % 4 ≠ 0) (s : State) :
    s.hostRegRead width off = .refused .hostAccessShape := by simp [State.hostRegRead, accessOk_eq_false h]

/-- What a register reads does not depend on the agenda. -/
@[simp] theorem readReg_agenda (s : State) (l : List Move) (r : Reg) :
    { s with agenda := l }.readReg r = s.readReg r := by cases r <;> rfl

/-! ## How every command ends (R50, R252, R292) -/

/-- Every command ends in one transition, and writes at most STATUS, RESULT, CODED and data memory: BUSY clears, DONE sets, WIGN
stays, and STATUS is otherwise written by a fault alone. -/
theorem exec_shape (i : Instr) (s : State) :
    ∃ (st : Status) (r : Vector Word 4) (c : Coded) (m : Memory),
      exec i s = .next { s with status := st, results := r, coded := c, mem := m } ∧
      st.busy = false ∧ st.done = true ∧ st.wign = s.status.wign ∧
      (commandFault i s = none → st = s.status.complete) := by
  cases hfault : commandFault i s with
  | some e => exact ⟨s.status.fault e s.pending, s.results, s.coded, s.mem, exec_of_fault hfault, rfl, rfl, rfl, nofun⟩
  | none =>
    exact ⟨s.status.complete, (commandEffect i s).results, (commandEffect i s).coded, (commandEffect i s).mem,
      (exec_of_runs hfault).trans (congrArg _ (congrArg State.complete (commandEffect_shape i s))),
      rfl, rfl, rfl, fun _ => rfl⟩

/-! ## Motion compensation and CODED (R51, R289) -/

/-- The motion-compensation commands. -/
def IsMc (i : Instr) : Prop :=
  i = .mcPredLuma ∨ i = .mcPredChroma ∨ i = .mcBiAvg ∨ i = .mcMvClip ∨ i = .mcBlock

/-- No check of a motion-compensation command looks at CODED. -/
theorem commandFault_coded_of_isMc {i : Instr} (h : IsMc i) (s : State) (c : Coded) :
    commandFault i { s with coded := c } = commandFault i s := by
  cases i
  case mcPredLuma | mcPredChroma | mcBiAvg | mcMvClip | mcBlock => rfl
  all_goals simp [IsMc] at h

@[simp] theorem clippedOperand_coded (s : State) (c : Coded) :
    { s with coded := c }.clippedOperand = s.clippedOperand := rfl

/-- No effect of a motion-compensation command looks at CODED or writes it. -/
theorem commandEffect_coded_of_isMc {i : Instr} (h : IsMc i) (s : State) (c : Coded) :
    commandEffect i { s with coded := c } = { commandEffect i s with coded := c } := by
  cases i
  case mcPredLuma | mcPredChroma | mcBiAvg | mcBlock => rfl
  case mcMvClip => simp only [commandEffect, effectMcMvClip, State.setResult, clippedOperand_coded]
  all_goals simp [IsMc] at h

/-! ## RESET (R280 to R282) -/

/-- Every register the window reads has its reset value after RESET. -/
theorem readReg_resetBlock {r : Reg} (h : r ≠ .id) (s : State) : s.resetBlock.readReg r = 0 :=
  readReg_resetWith h s.params s.resetBlock.mem

theorem resetBlock_mem_of_idle {s : State} (h : s.status.busy = false) : s.resetBlock.mem = s.mem := by
  simp [resetBlock_mem, h]

theorem read_resetBlock_of_busy {s : State} (h : s.status.busy = true) {a : Nat} (ha : a ∉ s.pendingWrites) :
    s.resetBlock.mem.read a = s.mem.read a := by
  rw [resetBlock_mem, if_pos h]
  exact read_freeBytes_ne ha

/-! ## The statements: tier 2 -/

/-- Settles O19: by `exec_shape`, a command writes at most STATUS, RESULT, CODED and data memory, so all else stays. -/
theorem commandsCompleteAndLeaveTheOtherRegisters : Obligations.CommandsCompleteAndLeaveTheOtherRegisters := by
  unfold Obligations.CommandsCompleteAndLeaveTheOtherRegisters
  intro i s
  obtain ⟨st, r, c, m, hexec, hbusy, hdone, hwign, hruns⟩ := exec_shape i s
  exact ⟨_, hexec, hbusy, hdone, hwign, hruns, rfl, rfl, rfl, rfl, rfl, rfl, rfl, rfl, rfl, rfl, rfl, rfl, rfl, rfl, rfl, rfl,
    rfl, rfl⟩

/-- Settles O23: with another CODED the checks give the same fault, and the effect is the same but for CODED. -/
theorem mcIsIndependentOfCoded : Obligations.McIsIndependentOfCoded := by
  unfold Obligations.McIsIndependentOfCoded
  intro i s t c hmc hexec
  have hfault := commandFault_coded_of_isMc hmc s c
  rcases exec_cases hexec with ⟨e, he, rfl⟩ | ⟨hruns, rfl⟩
  · exact exec_of_fault (hfault.trans he)
  · rw [exec_of_runs (hfault.trans hruns), commandEffect_coded_of_isMc hmc]
    rfl

/-! ## The statements: tier 1 -/

/-- Settles O5: a step makes the move at the head of the agenda, and each move here is one rule of the host's port or of the
engine's turn. -/
theorem stepMakesTheNextMove : Obligations.StepMakesTheNextMove := by
  unfold Obligations.StepMakesTheNextMove
  intro s rest width off v
  have hstep (mv : Move) : step { s with agenda := mv :: rest } = { s with agenda := rest }.make mv :=
    step_of_agenda_cons rfl
  simp only [hstep]
  refine ⟨fun haligned => ⟨hostRegWrite_of_aligned haligned _ v, ?_⟩,
    fun hshape => ⟨hostRegWrite_of_badShape hshape _ v, hostRegRead_of_badShape hshape _⟩, rfl,
    fun hidle => ⟨engineTurn_of_idle (s := { s with agenda := rest }) hidle, fun hnil => ?_⟩⟩
  · rw [← readReg_agenda s rest]
    exact hostRegRead_of_aligned haligned _
  · rw [step_of_agenda_nil hnil, engineTurn_of_idle hidle]

/-- Settles O18: the registers by `readReg_resetBlock`, data memory by what RESET makes of an idle and of a busy block. -/
theorem resetInOneStep : Obligations.ResetInOneStep := by
  unfold Obligations.ResetInOneStep
  exact fun s => ⟨fun r hr => readReg_resetBlock hr s, rfl, fun j i => rfl, rfl, rfl, rfl, irq_of_disabled rfl, rfl,
    resetBlock_mem_of_idle, fun hbusy a ha => read_resetBlock_of_busy hbusy ha⟩

end Sys2Proof.Machine
